-- ==== Sys2Proof/Word.lean ====
section
/-! DEFINITION. The word types of nut-fcv: bytes of the wire and the buffers, and the 32-bit words of the host interface (10_state.md section 3, 30_encoding.md R70). -/

namespace Sys2Proof

/-- One byte of a buffer or of the wire. -/
abbrev Byte := BitVec 8

/-- One 32-bit word: a command word, or a host access's data. -/
abbrev Word := BitVec 32

end Sys2Proof
end

