-- ==== Sys2Proof/Syntax.lean ====
section
/-! DEFINITION. The twelve commands of 30_encoding.md R73, one constructor per row of the opcode table. Fields are unsigned integers (R72), written in the order of the assembler syntax of R76. -/

namespace Sys2Proof

/-- PCHK's buffer select S (30_encoding.md R72): 0 is TXBUF, 1 is RXBUF. -/
inductive BufSel where
  | tx
  | rx
  deriving DecidableEq, Repr

/-- A decoded command. -/
inductive Instr where
  /-- BUILD (0x01, 41_codec.md R100) -/
  | build
  /-- LCHK L12 (0x02, 41_codec.md R102) -/
  | lchk (l12 : Nat)
  /-- PCHK S, OFF, LEN (0x03, 41_codec.md R104) -/
  | pchk (sel : BufSel) (off len : Nat)
  /-- VALIDATE MINLEN (0x04, 41_codec.md R107) -/
  | validate (minlen : Nat)
  /-- CHKLEN (0x05, 41_codec.md R112) -/
  | chklen
  /-- CHKSUM (0x06, 41_codec.md R115) -/
  | chksum
  /-- HEX2VAL OFF, LEN (0x07, 42_hexdecode.md R131) -/
  | hex2val (off len : Nat)
  /-- HEX2STR OFF, LEN, CAP (0x08, 42_hexdecode.md R135) -/
  | hex2str (off len cap : Nat)
  /-- EXCHANGE (0x09, 43_exchange_dispatch.md R151) -/
  | exchange
  /-- EXECUTE IDX (0x0A, 43_exchange_dispatch.md R160) -/
  | execute (idx : Nat)
  /-- TICK (0x0B, 44_pollfsm.md R180) -/
  | tick
  /-- PROBE (0x0C, 43_exchange_dispatch.md R170) -/
  | probe
  deriving DecidableEq, Repr

end Sys2Proof
end

