-- ==== Sys2Proof/WellFormed.lean ====
section
/-! DEFINITION. Which instructions a command word can hold: the field ranges of 30_encoding.md R72. Values that are in range here but out of range for a command (R75) are well-formed: the command's own rule says what they do. -/

namespace Sys2Proof

/-- 30_encoding.md R72: OFF, LEN, CAP, MINLEN and IDX are 0..255 and L12 is 0..4095. -/
def Instr.wf : Instr → Bool
  | .build => true
  | .lchk l12 => decide (l12 < 4096)
  | .pchk _ off len => decide (off < 256) && decide (len < 256)
  | .validate minlen => decide (minlen < 256)
  | .chklen => true
  | .chksum => true
  | .hex2val off len => decide (off < 256) && decide (len < 256)
  | .hex2str off len cap => decide (off < 256) && decide (len < 256) && decide (cap < 256)
  | .exchange => true
  | .execute idx => decide (idx < 256)
  | .tick => true
  | .probe => true

end Sys2Proof
end

