-- ==== Sys2Proof/Decode.lean ====
section
/-! DEFINITION. Decoding a command word (30_encoding.md R70 to R74), and after it the encoder written from the same formats. -/

namespace Sys2Proof

/-- `w[hi:lo]` of 00_scope.md R8: bits hi down to lo, inclusive, as an unsigned integer. -/
def slice (w : Word) (hi lo : Nat) : Nat := w.toNat / 2 ^ lo % 2 ^ (hi - lo + 1)

/-- What decoding a command word yields: a command, or a rejection by name (30_encoding.md R71, R74). -/
inductive DecodeResult where
  | ok (i : Instr)
  /-- the opcode is 0x00 or 0x0D..0xFF -/
  | illegalOpcode (op : Nat)
  /-- a bit that the opcode's format marks 0 is 1 -/
  | reservedBits (op : Nat)
  deriving DecidableEq, Repr

/-- The buffer that select bit S names (30_encoding.md R72). -/
def bufSelOf (s : Nat) : BufSel := if s = 0 then .tx else .rx

/-- The select bit of a buffer (30_encoding.md R72). -/
def bufSelBit : BufSel → Nat
  | .tx => 0
  | .rx => 1

/-- A command whose format marks bits 31:lo as 0: it decodes only if they are. -/
def onlyIfZeroFrom (w : Word) (lo : Nat) (i : Instr) : DecodeResult :=
  if slice w 31 lo = 0 then .ok i else .reservedBits (slice w 7 0)

/-- Decode (30_encoding.md R71): the opcode, then the bits its format marks 0, then the fields of R72 and R73. -/
def decode (w : Word) : DecodeResult :=
  match slice w 7 0 with
  | 0x01 => onlyIfZeroFrom w 8 .build
  | 0x02 => onlyIfZeroFrom w 20 (.lchk (slice w 19 8))
  | 0x03 => onlyIfZeroFrom w 25 (.pchk (bufSelOf (slice w 24 24)) (slice w 15 8) (slice w 23 16))
  | 0x04 => onlyIfZeroFrom w 16 (.validate (slice w 15 8))
  | 0x05 => onlyIfZeroFrom w 8 .chklen
  | 0x06 => onlyIfZeroFrom w 8 .chksum
  | 0x07 => onlyIfZeroFrom w 24 (.hex2val (slice w 15 8) (slice w 23 16))
  | 0x08 => .ok (.hex2str (slice w 15 8) (slice w 23 16) (slice w 31 24))
  | 0x09 => onlyIfZeroFrom w 8 .exchange
  | 0x0A => onlyIfZeroFrom w 16 (.execute (slice w 15 8))
  | 0x0B => onlyIfZeroFrom w 8 .tick
  | 0x0C => onlyIfZeroFrom w 8 .probe
  | op => .illegalOpcode op

/-- The opcode of a command (30_encoding.md R73). -/
def opcode : Instr → Nat
  | .build => 0x01
  | .lchk _ => 0x02
  | .pchk _ _ _ => 0x03
  | .validate _ => 0x04
  | .chklen => 0x05
  | .chksum => 0x06
  | .hex2val _ _ => 0x07
  | .hex2str _ _ _ => 0x08
  | .exchange => 0x09
  | .execute _ => 0x0A
  | .tick => 0x0B
  | .probe => 0x0C

/-- Bits 31:8 of a command's word, in units of bit 8 (the formats of 30_encoding.md R72). -/
def operandBits : Instr → Nat
  | .build | .chklen | .chksum | .exchange | .tick | .probe => 0
  | .lchk l12 => l12
  | .pchk sel off len => off + len * 2 ^ 8 + bufSelBit sel * 2 ^ 16
  | .validate minlen => minlen
  | .hex2val off len => off + len * 2 ^ 8
  | .hex2str off len cap => off + len * 2 ^ 8 + cap * 2 ^ 16
  | .execute idx => idx

/-- The command word of a well-formed instruction (30_encoding.md R70 to R73). -/
def encode (i : Instr) : Word := BitVec.ofNat 32 (opcode i + operandBits i * 2 ^ 8)

/-- The low `nbits` bits of `w` as a command word, the bits above them 0. -/
def tableWord (nbits w : Nat) : Word := BitVec.ofNat 32 (w % 2 ^ nbits)

/-- The instruction the decoder reads from an instruction whose bits are `w`. A command is one 32-bit word (30_encoding.md R70), so there is no second word and no byte order to undo. -/
def decodeTableWord (nbits w : Nat) : Option Instr :=
  match decode (tableWord nbits w) with
  | .ok i => some i
  | .illegalOpcode _ => none
  | .reservedBits _ => none

end Sys2Proof
end

