-- ==== Sys2Proof/Config.lean ====
section
/-! DEFINITION. What an implementation fixes (00_scope.md R6, R7) and the free values of the spec. The parameters R7 marks OPEN are constants with no body, so a claim holds whatever they are; the decided ones have R7's values. All of them together are one record, `Config.Params`, which the machine carries ("the model takes each as an argument", R7), so that a claim about every state is a claim about every configuration. -/

namespace Sys2Proof.Config

/-! ## Types of the parameters -/

/-- A set of status flags (10_state.md R41: a subset of ON_LINE, ON_BATTERY, BYPASS). -/
structure StatusSet where
  onLine : Bool
  onBattery : Bool
  bypass : Bool
  deriving DecidableEq, Repr, Inhabited

/-- The values of CHG_MAP (00_scope.md R7). -/
inductive ChargerStatus where
  | resting
  | charging
  | discharging
  deriving DecidableEq, Repr, Inhabited

/-- The values of TEST_MAP (00_scope.md R7). -/
inductive BatteryTest where
  | inProgress
  | idle
  deriving DecidableEq, Repr, Inhabited

/-- FLAG_PRIORITY (00_scope.md R7, 44_pollfsm.md R193). -/
inductive FlagPriority where
  | warnFirst
  | onoffFirst
  deriving DecidableEq, Repr, Inhabited

/-- A map from a byte to a value or ANOMALY (00_scope.md R7): the codes with a value; the first entry of a code counts, and a code with no entry is an ANOMALY. -/
abbrev CodeMap (α : Type) := List (Byte × α)

/-- CHG_MAP (00_scope.md R7: "3 codes map to the 3 values"): the code of each value, three different codes; every other code is an ANOMALY. The default values only show that such a map exists; nothing reads them. -/
structure ChargerCodes where
  resting : Byte := 0
  charging : Byte := 1
  discharging : Byte := 2
  distinct : [resting, charging, discharging].Nodup := by decide
  deriving DecidableEq, Repr, Inhabited

/-- An ASCII character: a byte below 0x80 (00_scope.md R7's ASCII types; log 19). -/
abbrev AsciiChar := BitVec 7

/-- Two ASCII bytes (00_scope.md R7), the first sent first. -/
structure Ascii2 where
  c0 : AsciiChar
  c1 : AsciiChar
  deriving DecidableEq, Repr, Inhabited

/-- Four ASCII bytes (00_scope.md R7), the first sent first. -/
structure Ascii4 where
  c0 : AsciiChar
  c1 : AsciiChar
  c2 : AsciiChar
  c3 : AsciiChar
  deriving DecidableEq, Repr, Inhabited

/-- REQ_PAYLOAD(k) (00_scope.md R7): an ASCII string of at most 110 characters, so that U14's longer ones cannot be written down. The payload is the first `len` characters. -/
structure Payload where
  len : Fin 111
  chars : Vector AsciiChar 110
  deriving DecidableEq, Repr, Inhabited

/-- ONOFF_LAYOUT (44_pollfsm.md R194): four two-character fields, each offset counted from 13, so that 13 ≤ offset and offset + 2 ≤ 33 (R199). -/
structure OnoffLayout where
  psrc : Fin 19
  rsrc : Fin 19
  chg : Fin 19
  test : Fin 19
  deriving DecidableEq, Repr, Inhabited

/-- ANALOG_LAYOUT (44_pollfsm.md R195): nine four-character fields, each offset counted from 13, so that 13 ≤ offset and offset + 4 ≤ 99 (R199). -/
structure AnalogLayout where
  inputVoltage : Fin 83
  outputVoltage : Fin 83
  outputCurrent : Fin 83
  batteryVoltage : Fin 83
  outputFrequency : Fin 83
  inputFrequency : Fin 83
  realpower : Fin 83
  apparentPower : Fin 83
  runtimeLow : Fin 83
  deriving DecidableEq, Repr, Inhabited

/-- A SYSPARAM field (SYS_LAYOUT and SYS_WIDTH of 00_scope.md R7): two or four characters, its offset counted from 13, so that 13 ≤ offset and offset + width ≤ 119 (44_pollfsm.md R199). -/
inductive SysField where
  | two (at13 : Fin 105)
  | four (at13 : Fin 103)
  deriving DecidableEq, Repr, Inhabited

/-- SYS_LAYOUT and SYS_WIDTH (00_scope.md R7, 44_pollfsm.md R198): the seven fields. -/
structure SysLayout where
  nomv : SysField
  nomf : SysField
  byph : SysField
  byphe : SysField
  bypl : SysField
  byple : SysField
  tint : SysField
  deriving DecidableEq, Repr, Inhabited

/-- A value of SYS_SCALE (00_scope.md R7: "one of the source's scalings (÷100, ×10, ×1.15, …) or 1"): 1, a scaling that R7 names, or one of those its "…" leaves out, which `otherScaling` numbers (log 4). -/
inductive Scaling where
  | one
  | div100
  | times10
  | times1point15
  | other (n : Nat)
  deriving DecidableEq, Repr, Inhabited

/-- SYS_SCALE (00_scope.md R7): the scaling of each scaled SYSPARAM field. -/
structure SysScale where
  nomv : Scaling
  nomf : Scaling
  byph : Scaling
  bypl : Scaling
  deriving DecidableEq, Repr, Inhabited

/-- WARN_NAME (00_scope.md R7): a fault name for each slot, `none` being PLACEHOLDER; "Rectifier Failure" is one of them. The default values only show that such a table exists; nothing reads them. -/
structure WarnNames where
  slots : Vector (Option String) 26 := Vector.replicate 26 (some "Rectifier Failure")
  rectifierFailure : some "Rectifier Failure" ∈ slots.toList := by decide
  deriving DecidableEq, Repr, Inhabited

/-- A receive answer of the transport (10_state.md R40): a nonempty byte string, a timeout, or an I/O error whose result is −(k + 1). -/
inductive RecvAnswer where
  | bytes (first : Byte) (rest : List Byte)
  | timeout
  | ioError (k : Nat)
  deriving DecidableEq, Repr, Inhabited

/-- Every parameter of 00_scope.md R7, in the table's order, each in a type that holds R7's constraint. -/
structure Params where
  soiChar : Byte
  eoiChar : Byte
  protoVer : Ascii2
  addrDefault : Ascii2
  cidAnalog : Ascii4
  cidOnoff : Ascii4
  cidWarning : Ascii4
  cidRemote : Ascii4
  cidGetsys : Ascii4
  cidVendor : Ascii4
  reqAnalog : Payload
  reqOnoff : Payload
  reqWarning : Payload
  reqGetsys : Payload
  reqVendor : Payload
  cmdCode0 : Ascii4
  cmdCode1 : Ascii4
  cmdCode3 : Ascii4
  /-- DATAFLAG_OFF, counted from 13: 13 ≤ DATAFLAG_OFF and DATAFLAG_OFF + 2 ≤ 33 -/
  dataflagOff : Fin 19
  flagPriority : FlagPriority
  onoffLayout : OnoffLayout
  statusMapP : CodeMap StatusSet
  statusMapR : CodeMap StatusSet
  chgMap : ChargerCodes
  testMap : CodeMap BatteryTest
  analogLayout : AnalogLayout
  sysLayout : SysLayout
  sysScale : SysScale
  /-- WARN_BASE, counted from 13: 13 ≤ WARN_BASE and WARN_BASE + 52 ≤ 67 -/
  warnBase : Fin 3
  warnName : WarnNames
  verifyRx : Bool
  probeChecksRc : Bool
  /-- NAME_OFF: NAME_OFF + 20 ≤ 35 -/
  nameOff : Fin 16
  /-- NAME_CAP − 11: NAME_CAP ≥ 11 -/
  nameCapOver11 : Nat
  deriving DecidableEq, Repr

/-! ## The OPEN parameters (00_scope.md R7): constants with no body -/

/-- SOI_CHAR, the start marker (D8). -/
opaque SOI_CHAR : Byte
/-- EOI_CHAR, the end marker (D8). -/
opaque EOI_CHAR : Byte
/-- PROTO_VER, the two protocol-version characters (D9). -/
opaque PROTO_VER : Ascii2
/-- ADDR_DEFAULT, the two default address characters (D9). -/
opaque ADDR_DEFAULT : Ascii2
/-- CID(ANALOG) (D10). -/
opaque CID_ANALOG : Ascii4
/-- CID(ONOFF) (D10). -/
opaque CID_ONOFF : Ascii4
/-- CID(WARNING) (D10). -/
opaque CID_WARNING : Ascii4
/-- CID(REMOTE) (D10). -/
opaque CID_REMOTE : Ascii4
/-- CID(GETSYS) (D10). -/
opaque CID_GETSYS : Ascii4
/-- CID(VENDOR) (D10). -/
opaque CID_VENDOR : Ascii4
/-- REQ_PAYLOAD(ANALOG) (D10). -/
opaque REQ_PAYLOAD_ANALOG : Payload
/-- REQ_PAYLOAD(ONOFF) (D10). -/
opaque REQ_PAYLOAD_ONOFF : Payload
/-- REQ_PAYLOAD(WARNING) (D10). -/
opaque REQ_PAYLOAD_WARNING : Payload
/-- REQ_PAYLOAD(GETSYS) (D10). -/
opaque REQ_PAYLOAD_GETSYS : Payload
/-- REQ_PAYLOAD(VENDOR) (D10). -/
opaque REQ_PAYLOAD_VENDOR : Payload
/-- CMDCODE(0), start battery test (D11). -/
opaque CMDCODE_0 : Ascii4
/-- CMDCODE(1), stop battery test (D11). -/
opaque CMDCODE_1 : Ascii4
/-- CMDCODE(3), turn load off (D11). -/
opaque CMDCODE_3 : Ascii4
/-- ONOFF_LAYOUT (D23). -/
opaque ONOFF_LAYOUT : OnoffLayout
/-- STATUS_MAP_P, for the power-supply source field (D23). -/
opaque STATUS_MAP_P : CodeMap StatusSet
/-- STATUS_MAP_R, for the rectifier source field (D23). -/
opaque STATUS_MAP_R : CodeMap StatusSet
/-- CHG_MAP (D23). -/
opaque CHG_MAP : ChargerCodes
/-- TEST_MAP (D23). -/
opaque TEST_MAP : CodeMap BatteryTest
/-- ANALOG_LAYOUT (D23). -/
opaque ANALOG_LAYOUT : AnalogLayout
/-- SYS_LAYOUT and SYS_WIDTH (D23). -/
opaque SYS_LAYOUT : SysLayout
/-- SYS_SCALE (D23). -/
opaque SYS_SCALE : SysScale
/-- The source's scalings beyond those that R7 names, which its "…" leaves out (log 4). -/
opaque otherScaling (n : Nat) : ℚ
/-- WARN_NAME (D23). -/
opaque WARN_NAME : WarnNames

/-- The device: the OPEN parameters as they are, the decided ones as 00_scope.md R7 decides them (D15, D18, D20, D24, D27). -/
def device : Params where
  soiChar := SOI_CHAR
  eoiChar := EOI_CHAR
  protoVer := PROTO_VER
  addrDefault := ADDR_DEFAULT
  cidAnalog := CID_ANALOG
  cidOnoff := CID_ONOFF
  cidWarning := CID_WARNING
  cidRemote := CID_REMOTE
  cidGetsys := CID_GETSYS
  cidVendor := CID_VENDOR
  reqAnalog := REQ_PAYLOAD_ANALOG
  reqOnoff := REQ_PAYLOAD_ONOFF
  reqWarning := REQ_PAYLOAD_WARNING
  reqGetsys := REQ_PAYLOAD_GETSYS
  reqVendor := REQ_PAYLOAD_VENDOR
  cmdCode0 := CMDCODE_0
  cmdCode1 := CMDCODE_1
  cmdCode3 := CMDCODE_3
  dataflagOff := 0        -- 13
  flagPriority := .warnFirst
  onoffLayout := ONOFF_LAYOUT
  statusMapP := STATUS_MAP_P
  statusMapR := STATUS_MAP_R
  chgMap := CHG_MAP
  testMap := TEST_MAP
  analogLayout := ANALOG_LAYOUT
  sysLayout := SYS_LAYOUT
  sysScale := SYS_SCALE
  warnBase := 2           -- 15
  warnName := WARN_NAME
  verifyRx := false
  probeChecksRc := true
  nameOff := 15
  nameCapOver11 := 0      -- 11

/-! ## The free values -/

/-- `draw()` of 00_scope.md R9: the n-th free value of a run. Nothing constrains it; a draw of fewer bits takes its low bits. DESIGN CHOICE (log 1), safe. -/
opaque freeValue (n : Nat) : BitVec 64

/-- The transport's answer to a send (10_state.md R40), where none is listed in the state. Nothing constrains it. DESIGN CHOICE (log 2), safe. -/
opaque sendOracle (n : Nat) : Int

/-- The transport's answer to a receive (10_state.md R40), where none is listed in the state. Nothing constrains it. DESIGN CHOICE (log 2), safe. -/
opaque recvOracle (n : Nat) : RecvAnswer

end Sys2Proof.Config
end

