-- ==== Sys2Proof/Machine/Ascii.lean ====
section
/-! DEFINITION. The bytes of the parameters' ASCII characters, and how a two-character parameter stands in a register (00_scope.md R7, 20_memory.md R53). -/

namespace Sys2Proof.Machine

open Sys2Proof.Config

/-- The byte of an ASCII character. -/
def asciiByte (c : AsciiChar) : Byte := c.setWidth 8

/-- The bytes of a four-character parameter, first character first. -/
def asciiChars4 (a : Ascii4) : List Byte := [asciiByte a.c0, asciiByte a.c1, asciiByte a.c2, asciiByte a.c3]

/-- A two-character parameter as a register holds it: first character in bits 7:0 (20_memory.md R53). -/
def asciiReg2 (a : Ascii2) : BitVec 16 := asciiByte a.c1 ++ asciiByte a.c0

end Sys2Proof.Machine
end

