-- ==== Sys2Proof/Machine/State.lean ====
section
/-! DEFINITION. The whole state of the machine as plain data: the registers and buffers of 10_state.md R23 to R39, the environment state of R40 to R42, the turns to come (R20, R62), and the machine right after reset (R44). -/

namespace Sys2Proof.Machine

open Sys2Proof.Config

/-- MODE, STATUS[3:2] (10_state.md R24); 11 is never held. -/
inductive Mode where
  | uninit
  | running
  | fatal
  deriving DecidableEq, Repr

/-- The poll phase (10_state.md R31, 44_pollfsm.md R190). -/
inductive Phase where
  | onoff
  | analog
  | warning
  | sysparam
  deriving DecidableEq, Repr

/-- The outcome codes of 60_exceptions.md R220; 13 to 255 are never produced. -/
inductive OutcomeCode where
  | ok
  | timeout
  | ioError
  | shortRead
  | rejected
  | unknownCommand
  | commandFailed
  | fatal
  | badLchk
  | badChk
  | badArgument
  | illegalCommand
  | wrongMode
  deriving DecidableEq, Repr

/-- The log codes of 60_exceptions.md R232. -/
inductive LogCode where
  | txTimeout
  | txIoerr
  | rxTimeout
  | rxIoerr
  | shortRead
  | rejected
  | badLchk
  | badChk
  | unknownCmd
  | cmdFailed
  | probeFatal
  | anomalyPsrc
  | anomalyRsrc
  | anomalyChg
  | anomalyTest
  | anomalyWarn
  | statusCorrected
  | badArgument
  | illegalCommand
  | wrongMode
  deriving DecidableEq, Repr

/-- One record of the log trace (10_state.md R42, 60_exceptions.md R232). -/
structure LogRecord where
  code : LogCode
  arg : Int
  deriving DecidableEq, Repr

/-- The four buffers (10_state.md R38). -/
inductive Buf where
  | tx
  | rx
  | pl
  | str
  deriving DecidableEq, Repr

/-- The bytes of one buffer that have a value: (index, byte) pairs, indices strictly rising. An index that is not listed has no value of its own: each read of it is a free value (10_state.md R38). -/
abbrev Memory := List Host.Cell

/-- The canonical form of a buffer: indices strictly rising. (No listed byte equals what an unlisted index reads as, because that is no value.) -/
abbrev Memory.wf (m : Memory) : Prop := m.Pairwise (fun x y => x.1 < y.1)

/-- The status flags (10_state.md R41). -/
inductive StatusFlag where
  | onLine
  | onBattery
  | bypass
  deriving DecidableEq, Repr

/-- The nine analog facts, in the order of 44_pollfsm.md R195's table. -/
inductive AnalogFact where
  | inputVoltage
  | outputVoltage
  | outputCurrent
  | batteryVoltage
  | outputFrequency
  | inputFrequency
  | realpower
  | apparentPower
  | runtimeLow
  deriving DecidableEq, Repr

/-- The fact ids the block publishes (43_exchange_dispatch.md R170, 44_pollfsm.md R194, R195, R198). -/
inductive FactId where
  | vendorName
  | chargerStatus
  | batteryTest
  | analog (k : AnalogFact)
  | nominalOutputVoltage
  | nominalOutputFrequency
  | bypassHighThreshold
  | bypassLowThreshold
  | batteryTestInterval
  deriving DecidableEq, Repr

/-- A fact's value (44_pollfsm.md R200): an exact rational, a byte string, or a symbol of a code map. -/
inductive FactValue where
  | number (v : ℚ)
  | text (s : List Byte)
  | charger (v : ChargerStatus)
  | test (v : BatteryTest)
  deriving DecidableEq, Repr

/-- The events of the store port (10_state.md R41). -/
inductive StoreEvent where
  | statusInit
  | statusSet (f : StatusFlag)
  | statusCommit
  | alarmInit
  | alarmSet (slot : Fin 26)
  | alarmCommit
  | fact (id : FactId) (value : FactValue)
  | markStale
  | markFresh
  deriving DecidableEq, Repr

/-- The store's batch mark (10_state.md R41). -/
inductive BatchMark where
  | none
  | stale
  | fresh
  deriving DecidableEq, Repr

/-- The store's state (10_state.md R41), and the trace of the events it was sent (20_memory.md R62). -/
structure Store where
  /-- SS, the committed status set -/
  status : StatusSet
  /-- the working set of a status transaction -/
  statusWork : StatusSet
  /-- AS, the committed alarm set, one Boolean a slot -/
  alarms : Vector Bool 26
  /-- the working set of an alarm transaction -/
  alarmsWork : Vector Bool 26
  /-- the map of facts, by the fact's index (`FactId.index`) -/
  facts : Vector (Option FactValue) 17
  mark : BatchMark
  /-- every event, oldest first -/
  events : List StoreEvent
  deriving DecidableEq, Repr

/-- A request at the transport port (10_state.md R40). -/
inductive WireRequest where
  | flush
  | send (s : List Byte)
  | recv (n : Nat)
  deriving DecidableEq, Repr

/-- The transport port (10_state.md R40): the answers it will give, and the trace of the requests it was made. An answer that is not listed is an oracle constant of Config. -/
structure Transport where
  sendAnswers : List Int
  recvAnswers : List RecvAnswer
  /-- every request, oldest first -/
  requests : List WireRequest
  deriving DecidableEq, Repr

/-- One turn of the total order of 20_memory.md R62: the block's turn, a host access (R51: a width in bits, a byte address of the 4 KiB register space), or a reset (70_reset_and_hazards.md R250). -/
inductive Turn where
  | block
  | hostRead (width : Nat) (addr : BitVec 12)
  | hostWrite (width : Nat) (addr : BitVec 12) (value : Word)
  | reset
  deriving DecidableEq, Repr

/-- The machine. -/
structure State where
  /-- the parameters (00_scope.md R7), fixed when the block is built -/
  cfg : Params
  /-- STATUS.BUSY (10_state.md R24) -/
  busy : Bool
  /-- STATUS.DONE (10_state.md R24) -/
  done : Bool
  /-- STATUS.MODE (10_state.md R24) -/
  mode : Mode
  /-- STATUS.OVERRUN, sticky (10_state.md R24) -/
  overrun : Bool
  /-- STATUS.NONHEX, sticky (10_state.md R24) -/
  nonhex : Bool
  /-- STATUS.BUSERR, sticky (10_state.md R24) -/
  buserr : Bool
  /-- OUTCOME (10_state.md R25) -/
  outcome : OutcomeCode
  /-- RESULT (10_state.md R26) -/
  result : BitVec 64
  /-- RXLEN, signed (10_state.md R27) -/
  rxlen : BitVec 16
  /-- RC (10_state.md R28) -/
  rc : BitVec 8
  /-- ADDR (10_state.md R29) -/
  adr : BitVec 16
  /-- VER (10_state.md R30) -/
  ver : BitVec 16
  /-- PHASE (10_state.md R31) -/
  phase : Phase
  /-- CID (10_state.md R32) -/
  cid : BitVec 32
  /-- PLLEN (10_state.md R33) -/
  pllen : BitVec 8
  /-- TXLEN (10_state.md R34) -/
  txlen : BitVec 8
  /-- STRLEN (10_state.md R35) -/
  strlen : BitVec 8
  /-- DATAFLAG (10_state.md R36) -/
  dataflag : BitVec 8
  /-- ATTEMPTS (10_state.md R37) -/
  attempts : BitVec 8
  /-- PENDING, the accepted command word (10_state.md R39, 20_memory.md R60); it counts only while BUSY -/
  pending : Word
  /-- TXBUF (10_state.md R38) -/
  tx : Memory
  /-- RXBUF (10_state.md R38) -/
  rx : Memory
  /-- PLBUF (10_state.md R38) -/
  pl : Memory
  /-- STRBUF (10_state.md R38) -/
  str : Memory
  /-- the store (10_state.md R41) -/
  store : Store
  /-- the transport port (10_state.md R40) -/
  transport : Transport
  /-- the log trace (10_state.md R42) -/
  log : List LogRecord
  /-- the turns to come (10_state.md R20, 20_memory.md R62); the model's own field, log 7 -/
  turns : List Turn
  /-- the data the last host read returned; the model's own field, log 12 -/
  hostData : Word
  /-- how many free values were drawn; the model's own field, log 1 -/
  draws : Nat
  deriving DecidableEq, Repr

/-- Why the machine would stop with a fault. It never does: the block has no traps, and every error ends its command with an outcome code (60_exceptions.md R225, R220), so no constructor is needed and nobody raises one. Safe. -/
inductive Fault where
  deriving DecidableEq, Repr

/-- Why an instruction would be refused. -/
inductive Refusal where
  /-- An arm of `exec` whose instruction has no meaning yet would raise it; every instruction has its meaning, so nobody does. Safe. -/
  | notModelled (mnemonic : String)
  deriving DecidableEq, Repr

/-- The store at power-on (10_state.md R41): empty sets, no facts, mark NONE. -/
def Store.powerOn : Store where
  status := { onLine := false, onBattery := false, bypass := false }
  statusWork := { onLine := false, onBattery := false, bypass := false }
  alarms := Vector.replicate 26 false
  alarmsWork := Vector.replicate 26 false
  facts := Vector.replicate 17 none
  mark := .none
  events := []

/-- The transport port before any request. -/
def Transport.powerOn : Transport where
  sendAnswers := []
  recvAnswers := []
  requests := []

/-- The machine after power-on reset (10_state.md R44, 70_reset_and_hazards.md R250) with the parameters `cfg`. -/
def State.resetOf (cfg : Params) : State where
  cfg := cfg
  busy := false
  done := false
  mode := .uninit
  overrun := false
  nonhex := false
  buserr := false
  outcome := .ok
  result := 0
  rxlen := 0
  rc := 0
  adr := asciiReg2 cfg.addrDefault
  ver := asciiReg2 cfg.protoVer
  phase := .sysparam
  cid := 0
  pllen := 0
  txlen := 0
  strlen := 0
  dataflag := 0
  attempts := 0
  pending := 0
  tx := []
  rx := []
  pl := []
  str := []
  store := Store.powerOn
  transport := Transport.powerOn
  log := []
  turns := []
  hostData := 0
  draws := 0

/-- The machine right after reset: the device's own parameters. -/
def State.reset : State := State.resetOf Config.device

end Sys2Proof.Machine
end

