-- ==== Sys2Proof/Machine/Operands.lean ====
section
/-! DEFINITION. The pure computations of the spec over bytes and numbers: buffer cells (10_state.md R38), characters and hex digits (30_encoding.md R80, 42_hexdecode.md R130), the two checksums and the frame (41_codec.md R101 to R106), and the operands that the parameters give a command (00_scope.md R7, 44_pollfsm.md R190). -/

namespace Sys2Proof.Machine

open Sys2Proof.Config

/-! ## Cells of a buffer -/

/-- The byte at index `i` of a buffer, if one was written there (10_state.md R38). -/
def Memory.read (m : Memory) (i : Nat) : Option Byte :=
  match m with
  | [] => none
  | (k, b) :: rest => if k = i then some b else Memory.read rest i

/-- A buffer with the byte `b` at index `i`. -/
def Memory.write (m : Memory) (i : Nat) (b : Byte) : Memory :=
  match m with
  | [] => [(i, b)]
  | (k, c) :: rest =>
    if i < k then (i, b) :: (k, c) :: rest
    else if i = k then (i, b) :: rest
    else (k, c) :: Memory.write rest i b

/-- A buffer with the bytes `bs` at the indices from `i` on. -/
def Memory.writeAll (m : Memory) (i : Nat) (bs : List Byte) : Memory :=
  match bs with
  | [] => m
  | b :: rest => Memory.writeAll (Memory.write m i b) (i + 1) rest

/-- The size of a buffer (10_state.md R38). -/
def Buf.size : Buf → Nat
  | .tx => 128
  | .rx => 128
  | .pl => 110
  | .str => 128

/-- The buffer that PCHK's select bit names (30_encoding.md R72). -/
def bufOfSel : BufSel → Buf
  | .tx => .tx
  | .rx => .rx

/-! ## Characters -/

/-- The characters of a two-character register, first character in bits 7:0 (20_memory.md R53). -/
def chars2 (w : BitVec 16) : List Byte := [w.extractLsb' 0 8, w.extractLsb' 8 8]

/-- The characters of a four-character register, first character in bits 7:0 (20_memory.md R53). -/
def chars4 (w : BitVec 32) : List Byte :=
  [w.extractLsb' 0 8, w.extractLsb' 8 8, w.extractLsb' 16 8, w.extractLsb' 24 8]

/-- The characters of a request payload (00_scope.md R7). -/
def payloadChars (p : Payload) : List Byte := (p.chars.toList.take p.len).map asciiByte

/-- The character of a hex digit 0..15, uppercase (30_encoding.md R80). -/
def hexChar (d : Nat) : Byte := BitVec.ofNat 8 (if d < 10 then 48 + d else 55 + d)

/-- `v` written with `k` hex digits, most significant first, uppercase, zero-padded (42_hexdecode.md R133). -/
def renderHex (k : Nat) (v : Nat) : List Byte :=
  match k with
  | 0 => []
  | k + 1 => hexChar (v / 16 ^ k % 16) :: renderHex k v

/-- `hex4(v)` (30_encoding.md R80). -/
def hex4 (v : Nat) : List Byte := renderHex 4 v

/-- `hex2(b)` (30_encoding.md R80, R84). -/
def hex2 (v : Nat) : List Byte := renderHex 2 v

/-- `digit(c)` where `isHex(c)` (42_hexdecode.md R130, 00_scope.md R9), and `none` where not. -/
def hexDigit (c : Byte) : Option Nat :=
  if 48 ≤ c.toNat ∧ c.toNat ≤ 57 then some (c.toNat - 48)
  else if 65 ≤ c.toNat ∧ c.toNat ≤ 70 then some (c.toNat - 55)
  else if 97 ≤ c.toNat ∧ c.toNat ≤ 102 then some (c.toNat - 87)
  else none

/-- The loop of 42_hexdecode.md R130 from the value `v` on: `none` where it meets a character that is not a hex digit. -/
def parseHexFrom (v : Nat) (s : List Byte) : Option Nat :=
  match s with
  | [] => some v
  | c :: rest =>
    match hexDigit c with
    | some d => parseHexFrom (16 * v + d) rest
    | none => none

/-- The value of a string of hex digits, most significant first (42_hexdecode.md R130), and `none` where some character is not one. -/
def parseHex (s : List Byte) : Option Nat := parseHexFrom 0 s

/-! ## Checksums and frames -/

/-- `nib(L, k)` (41_codec.md R101). -/
def nib (l k : Nat) : Nat := l / 16 ^ k % 16

/-- The length checksum `lchk(L)` (41_codec.md R101). -/
def lchk (l : Nat) : Nat := (16 - (nib l 0 + nib l 1 + nib l 2 + nib l 3) % 16) % 16

/-- `lenWord(L)` (41_codec.md R101, 30_encoding.md R83). -/
def lenWord (l : Nat) : Nat := lchk l * 4096 + l

/-- `lenField(L)` (41_codec.md R101). -/
def lenField (l : Nat) : List Byte := hex4 (lenWord l)

/-- The sum of the bytes of `s`, each unsigned (41_codec.md R103). -/
def byteSum (s : List Byte) : Nat :=
  match s with
  | [] => 0
  | b :: rest => b.toNat + byteSum rest

/-- `sum16(s)` (41_codec.md R103). -/
def sum16 (s : List Byte) : Nat := byteSum s % 65536

/-- The payload checksum `pchk(s)` (41_codec.md R103). -/
def pchk (s : List Byte) : Nat := (65536 - sum16 s) % 65536

/-- `body(c, v, a, p)`, the bytes the payload checksum covers (41_codec.md R105, R106). -/
def frameBody (c v a p : List Byte) : List Byte := v ++ a ++ c ++ lenField p.length ++ p

/-- `buildFrame(c, v, a, p)` (41_codec.md R106, 30_encoding.md R81). -/
def buildFrame (cfg : Params) (c v a p : List Byte) : List Byte :=
  [cfg.soiChar] ++ frameBody c v a p ++ hex4 (pchk (frameBody c v a p)) ++ [cfg.eoiChar]

/-- The cause index of a return code (41_codec.md R108): 1 to 6 are named, any other nonzero code is 7. -/
def causeIndex (rc : Nat) : Nat := if 1 ≤ rc ∧ rc ≤ 6 then rc else 7

/-! ## Operands that the parameters give -/

/-- The largest payload length (00_scope.md R6 MAX_PAYLOAD, 30_encoding.md R86). -/
def maxPayload : Nat := 110

/-- MIN_REPLY of a phase (00_scope.md R6, 44_pollfsm.md R190). -/
def minReply : Phase → Nat
  | .onoff => 33
  | .analog => 99
  | .warning => 67
  | .sysparam => 119

/-- The request CID of a phase (44_pollfsm.md R190). -/
def reqCid (cfg : Params) : Phase → Ascii4
  | .onoff => cfg.cidOnoff
  | .analog => cfg.cidAnalog
  | .warning => cfg.cidWarning
  | .sysparam => cfg.cidGetsys

/-- The request payload of a phase (44_pollfsm.md R190). -/
def reqPayload (cfg : Params) : Phase → List Byte
  | .onoff => payloadChars cfg.reqOnoff
  | .analog => payloadChars cfg.reqAnalog
  | .warning => payloadChars cfg.reqWarning
  | .sysparam => payloadChars cfg.reqGetsys

/-- CMDCODE(2), the characters "2001" (30_encoding.md R88). -/
def loadOnCode : List Byte := [0x32, 0x30, 0x30, 0x31]

/-- CMDCODE(IDX) for IDX = 0..3 (30_encoding.md R88); `none` is an unknown command (43_exchange_dispatch.md R160). -/
def cmdCode (cfg : Params) (idx : Nat) : Option (List Byte) :=
  match idx with
  | 0 => some (asciiChars4 cfg.cmdCode0)
  | 1 => some (asciiChars4 cfg.cmdCode1)
  | 2 => some loadOnCode
  | 3 => some (asciiChars4 cfg.cmdCode3)
  | _ => none

/-- The smallest frame offset of a field of the payload (00_scope.md R6 HEADER_LEN, 44_pollfsm.md R199). -/
def headerLen : Nat := 13

/-- DATAFLAG_OFF (44_pollfsm.md R183). -/
def dataflagOffset (cfg : Params) : Nat := headerLen + cfg.dataflagOff

/-- WARN_BASE (44_pollfsm.md R197). -/
def warnBaseOffset (cfg : Params) : Nat := headerLen + cfg.warnBase

/-- NAME_CAP (43_exchange_dispatch.md R170). -/
def nameCap (cfg : Params) : Nat := 11 + cfg.nameCapOver11

/-- AOFF(k) (44_pollfsm.md R195). -/
def analogOffset (l : AnalogLayout) (k : AnalogFact) : Nat :=
  headerLen + (match k with
    | .inputVoltage => l.inputVoltage
    | .outputVoltage => l.outputVoltage
    | .outputCurrent => l.outputCurrent
    | .batteryVoltage => l.batteryVoltage
    | .outputFrequency => l.outputFrequency
    | .inputFrequency => l.inputFrequency
    | .realpower => l.realpower
    | .apparentPower => l.apparentPower
    | .runtimeLow => l.runtimeLow).val

/-- SCALE(k) (44_pollfsm.md R195): × 10 for the two power fields, ÷ 100 for every other. -/
def analogScale : AnalogFact → ℚ
  | .realpower => 10
  | .apparentPower => 10
  | .inputVoltage => 1 / 100
  | .outputVoltage => 1 / 100
  | .outputCurrent => 1 / 100
  | .batteryVoltage => 1 / 100
  | .outputFrequency => 1 / 100
  | .inputFrequency => 1 / 100
  | .runtimeLow => 1 / 100

/-- The frame offset of a SYSPARAM field (44_pollfsm.md R198). -/
def sysOffset : SysField → Nat
  | .two k => headerLen + k
  | .four k => headerLen + k

/-- The exact rational of a SYS_SCALE value (00_scope.md R7). -/
def scalingValue : Scaling → ℚ
  | .one => 1
  | .div100 => 1 / 100
  | .times10 => 10
  | .times1point15 => 23 / 20
  | .other n => otherScaling n

/-- The value a code map gives a code, `none` for ANOMALY (00_scope.md R7). -/
def mapCode {α : Type} (m : CodeMap α) (code : Nat) : Option α :=
  match m with
  | [] => none
  | (k, v) :: rest => if k.toNat = code then some v else mapCode rest code

/-- CHG_MAP(c) (44_pollfsm.md R194), `none` for ANOMALY. -/
def mapCharger (m : ChargerCodes) (code : Nat) : Option ChargerStatus :=
  if code = m.resting.toNat then some .resting
  else if code = m.charging.toNat then some .charging
  else if code = m.discharging.toNat then some .discharging
  else none

/-- The warning codes that mean active (00_scope.md R6 WARN_ACTIVE_CODES, 44_pollfsm.md R197). -/
def warnActive (v : Nat) : Bool := v == 0x01 || v == 0x02 || v == 0x03 || v == 0xF0

/-- The data-flag override (44_pollfsm.md R193): bit 0 is "warning data pending", bit 4 "on/off data pending". -/
def flagOverride (cfg : Params) (df : Nat) (d : Phase) : Phase :=
  let w := df % 2
  let o := df / 16 % 2
  if w = 1 ∧ o = 1 then
    (match cfg.flagPriority with
      | .warnFirst => .warning
      | .onoffFirst => .onoff)
  else if w = 1 then .warning
  else if o = 1 then .onoff
  else d

/-! ## Sets of the store -/

/-- Whether a flag is in a status set (10_state.md R41). -/
def StatusSet.has (s : StatusSet) : StatusFlag → Bool
  | .onLine => s.onLine
  | .onBattery => s.onBattery
  | .bypass => s.bypass

/-- A status set with one more flag (10_state.md R41). -/
def StatusSet.add (s : StatusSet) : StatusFlag → StatusSet
  | .onLine => { s with onLine := true }
  | .onBattery => { s with onBattery := true }
  | .bypass => { s with bypass := true }

/-- The empty status set. -/
def StatusSet.empty : StatusSet := { onLine := false, onBattery := false, bypass := false }

/-- The union of two status sets (44_pollfsm.md R194). -/
def StatusSet.union (a b : StatusSet) : StatusSet :=
  { onLine := a.onLine || b.onLine, onBattery := a.onBattery || b.onBattery, bypass := a.bypass || b.bypass }

/-- The place of a fact in the store's map. -/
def FactId.index : FactId → Fin 17
  | .vendorName => 0
  | .chargerStatus => 1
  | .batteryTest => 2
  | .analog .inputVoltage => 3
  | .analog .outputVoltage => 4
  | .analog .outputCurrent => 5
  | .analog .batteryVoltage => 6
  | .analog .outputFrequency => 7
  | .analog .inputFrequency => 8
  | .analog .realpower => 9
  | .analog .apparentPower => 10
  | .analog .runtimeLow => 11
  | .nominalOutputVoltage => 12
  | .nominalOutputFrequency => 13
  | .bypassHighThreshold => 14
  | .bypassLowThreshold => 15
  | .batteryTestInterval => 16

/-- What an event does to the store (10_state.md R41); the trace keeps every event in order (20_memory.md R62). -/
def Store.apply (e : StoreEvent) (t : Store) : Store :=
  let u := { t with events := t.events ++ [e] }
  match e with
  | .statusInit => { u with statusWork := StatusSet.empty }
  | .statusSet f => { u with statusWork := StatusSet.add t.statusWork f }
  | .statusCommit => { u with status := t.statusWork }
  | .alarmInit => { u with alarmsWork := Vector.replicate 26 false }
  | .alarmSet i => { u with alarmsWork := t.alarmsWork.set i true }
  | .alarmCommit => { u with alarms := t.alarmsWork }
  | .fact id v => { u with facts := t.facts.set id.index (some v) }
  | .markStale => { u with mark := .stale }
  | .markFresh => { u with mark := .fresh }

/-- The store after a list of events, oldest first (20_memory.md R62). -/
def applyEvents (es : List StoreEvent) (t : Store) : Store := es.foldl (fun u e => Store.apply e u) t

/-- The value the store holds for a fact (10_state.md R41). -/
def Store.factOf (t : Store) (id : FactId) : Option FactValue := t.facts.get id.index

/-! ## Transport answers -/

/-- The result r of a receive of at most `n` bytes (10_state.md R40: r ≤ n). -/
def RecvAnswer.result (a : RecvAnswer) (n : Nat) : Int :=
  match a with
  | .bytes _ rest => min n (rest.length + 1)
  | .timeout => 0
  | .ioError k => -(k + 1)

/-- The bytes of a receive of at most `n` bytes (10_state.md R40: exactly r of them if r > 0). -/
def RecvAnswer.data (a : RecvAnswer) (n : Nat) : List Byte :=
  match a with
  | .bytes b rest => (b :: rest).take n
  | .timeout => []
  | .ioError _ => []

end Sys2Proof.Machine
end

