-- ==== Sys2Proof/Machine/Flags.lean ====
section
/-! DEFINITION. The codes and flag words of the machine: the numbers of the outcome codes, modes and phases, the STATUS word and its write-1-to-clear rule (10_state.md R24), and which modes allow which commands (60_exceptions.md R226). -/

namespace Sys2Proof.Machine

/-- The number of an outcome code (60_exceptions.md R220). -/
def OutcomeCode.code : OutcomeCode → Nat
  | .ok => 0
  | .timeout => 1
  | .ioError => 2
  | .shortRead => 3
  | .rejected => 4
  | .unknownCommand => 5
  | .commandFailed => 6
  | .fatal => 7
  | .badLchk => 8
  | .badChk => 9
  | .badArgument => 10
  | .illegalCommand => 11
  | .wrongMode => 12

/-- The record `finish` itself appends for an outcome, if any (60_exceptions.md R221). -/
def OutcomeCode.finishLog : OutcomeCode → Option LogCode
  | .badArgument => some .badArgument
  | .illegalCommand => some .illegalCommand
  | .wrongMode => some .wrongMode
  | .ok | .timeout | .ioError | .shortRead | .rejected | .unknownCommand | .commandFailed | .fatal | .badLchk | .badChk => none

/-- The number of a phase (10_state.md R31). -/
def Phase.code : Phase → Nat
  | .onoff => 0
  | .analog => 1
  | .warning => 2
  | .sysparam => 3

/-- STATUS[3:2] (10_state.md R24). -/
def Mode.code : Mode → Nat
  | .uninit => 0
  | .running => 1
  | .fatal => 2

/-- The STATUS word a host reads (10_state.md R24): bits 31:7 are 0. -/
def statusWord (s : State) : Word :=
  BitVec.ofNat 32 (s.busy.toNat + 2 * s.done.toNat + 4 * s.mode.code + 16 * s.overrun.toNat
    + 32 * s.nonhex.toNat + 64 * s.buserr.toNat)

/-- A host write of `v` to STATUS (10_state.md R24): it clears the sticky bits written as 1 and nothing else. -/
def clearSticky (v : Word) (s : State) : State :=
  { s with
    overrun := s.overrun && !v.getLsbD 4
    nonhex := s.nonhex && !v.getLsbD 5
    buserr := s.buserr && !v.getLsbD 6 }

/-- The rows of 60_exceptions.md R226. -/
inductive ModeRow where
  /-- BUILD to HEX2STR, and EXCHANGE: UNINIT and RUNNING -/
  | untilFatal
  /-- EXECUTE and TICK: RUNNING -/
  | runningOnly
  /-- PROBE: UNINIT -/
  | uninitOnly
  deriving DecidableEq, Repr

/-- Whether a row of 60_exceptions.md R226 allows a command in a mode. -/
def modeAllows (r : ModeRow) (m : Mode) : Bool :=
  match r, m with
  | .untilFatal, .uninit => true
  | .untilFatal, .running => true
  | .untilFatal, .fatal => false
  | .runningOnly, .uninit => false
  | .runningOnly, .running => true
  | .runningOnly, .fatal => false
  | .uninitOnly, .uninit => true
  | .uninitOnly, .running => false
  | .uninitOnly, .fatal => false

end Sys2Proof.Machine
end

