-- ==== Sys2Proof/Machine/Ops.lean ====
section
/-! DEFINITION. The shared operations of the commands: free values and buffer reads, the log and the store and transport ports (10_state.md R40 to R42), the hex decoder (42_hexdecode.md R130, R134), validation and acceptance of a reply (41_codec.md R107, R112, R115, R118), the exchange (43_exchange_dispatch.md R150), bounded retry (R162), and the one way every command ends, `finish` (60_exceptions.md R221), with the mode check before it (R226). -/

namespace Sys2Proof.Machine

open Sys2Proof.Config

/-! ## Free values, buffers -/

/-- `draw()` (00_scope.md R9): the next free value. -/
def draw (s : State) : BitVec 64 × State :=
  (Config.freeValue s.draws, { s with draws := s.draws + 1 })

/-- A buffer of the machine (10_state.md R38). -/
def State.buf (s : State) : Buf → Memory
  | .tx => s.tx
  | .rx => s.rx
  | .pl => s.pl
  | .str => s.str

/-- One read of byte `i` of a buffer (10_state.md R38): the byte written there, or a free value where none was. -/
def readByte (b : Buf) (i : Nat) (s : State) : Byte × State :=
  match Memory.read (s.buf b) i with
  | some v => (v, s)
  | none => ((draw s).1.setWidth 8, (draw s).2)

/-- The bytes `off .. off + len − 1` of a buffer, read in order (00_scope.md R9). -/
def readBytes (b : Buf) (off len : Nat) (s : State) : List Byte × State :=
  match len with
  | 0 => ([], s)
  | len + 1 =>
    let h := readByte b off s
    let t := readBytes b (off + 1) len h.2
    (h.1 :: t.1, t.2)

/-! ## Ports -/

/-- `log(code, arg)` (60_exceptions.md R232). -/
def logRec (code : LogCode) (arg : Int) (s : State) : State :=
  { s with log := s.log ++ [{ code := code, arg := arg }] }

/-- `S.emit(e)` (10_state.md R41). -/
def emit (e : StoreEvent) (s : State) : State := { s with store := Store.apply e s.store }

/-- `S.query(f)` (10_state.md R41): whether the last committed status set has the flag. -/
def query (f : StatusFlag) (s : State) : Bool := StatusSet.has s.store.status f

/-- A request at the transport port, recorded in the order it is made (20_memory.md R62). -/
def request (r : WireRequest) (s : State) : State :=
  { s with transport := { s.transport with requests := s.transport.requests ++ [r] } }

/-- `T.flush()` (10_state.md R40). -/
def transportFlush (s : State) : State := request .flush s

/-- `T.send(f) -> r` (10_state.md R40): the next send answer, or an oracle's. -/
def transportSend (f : List Byte) (s : State) : Int × State :=
  let t := request (.send f) s
  match t.transport.sendAnswers with
  | r :: rest => (r, { t with transport := { t.transport with sendAnswers := rest } })
  | [] => (Config.sendOracle t.draws, { t with draws := t.draws + 1 })

/-- `T.recv(n)` (10_state.md R40): the next receive answer, or an oracle's. `RecvAnswer.result` and `RecvAnswer.data` cut it to n bytes. -/
def transportRecv (n : Nat) (s : State) : RecvAnswer × State :=
  let t := request (.recv n) s
  match t.transport.recvAnswers with
  | a :: rest => (a, { t with transport := { t.transport with recvAnswers := rest } })
  | [] => (Config.recvOracle t.draws, { t with draws := t.draws + 1 })

/-! ## Ending a command: the outcome, which is this block's only form of exception (60_exceptions.md R225) -/

/-- The records `finish(o)` itself appends for the command word `w` (60_exceptions.md R221). -/
def finishRecords (o : OutcomeCode) (w : Word) : List LogRecord :=
  match o.finishLog with
  | some c => [{ code := c, arg := w.toNat }]
  | none => []

/-- `finish(o)` (60_exceptions.md R221): the outcome, a log record with the command word for the three outcomes R221 names, BUSY <- 0, DONE <- 1. -/
def finish (o : OutcomeCode) (s : State) : State :=
  { s with log := s.log ++ finishRecords o s.pending, outcome := o, busy := false, done := true }

/-- A command under its row of the mode table (60_exceptions.md R226): its own rule where the mode allows it, WRONG_MODE with no other effect where not. -/
def runIn (row : ModeRow) (body : State → State) (s : State) : Host.Outcome State Fault Refusal :=
  .next (if modeAllows row s.mode then body s else finish .wrongMode s)

/-! ## The hex decoder -/

/-- `hexval(s)` (42_hexdecode.md R130): 0 for more than 15 characters; a free 64-bit value, and NONHEX, where some character is not a hex digit. -/
def hexval (bs : List Byte) (s : State) : Nat × State :=
  if 15 < bs.length then (0, s)
  else
    match parseHex bs with
    | some v => (v, s)
    | none =>
      let d := draw { s with nonhex := true }
      (d.1.toNat, d.2)

/-- `hexval` of the bytes `off .. off + len − 1` of RXBUF. -/
def readHex (off len : Nat) (s : State) : Nat × State :=
  let r := readBytes .rx off len s
  hexval r.1 r.2

/-- A two-character field: `hexval(...) mod 256` (42_hexdecode.md R132, 44_pollfsm.md section 3). -/
def readHexByte (off : Nat) (s : State) : Nat × State :=
  let r := readHex off 2 s
  (r.1 % 256, r.2)

/-- The loop of 42_hexdecode.md R134 for at most `n` output bytes: a decoded space ends it and is not written. -/
def decodePairs (n : Nat) (bs : List Byte) (s : State) : List Byte × State :=
  match n, bs with
  | n + 1, a :: b :: rest =>
    let h := hexval [a, b] s
    if h.1 % 256 = 0x20 then ([], h.2)
    else
      let t := decodePairs n rest h.2
      (BitVec.ofNat 8 h.1 :: t.1, t.2)
  | _, _ => ([], s)

/-- `strFromHex(s, k, cap)` into STRBUF (42_hexdecode.md R134): the decoded bytes, always terminated by 0x00. It answers the bytes before the terminator. -/
def strFromHex (bs : List Byte) (k cap : Nat) (s : State) : List Byte × State :=
  let d := decodePairs (min (k / 2) (cap - 1)) bs s
  (d.1, { d.2 with str := Memory.writeAll d.2.str 0 (d.1 ++ [0x00]) })

/-! ## Validation of a reply -/

/-- `validate(m, checkRc)` (41_codec.md R107, R108). -/
def validate (m : Nat) (checkRc : Bool) (s : State) : OutcomeCode × State :=
  let n := s.rxlen.toInt
  if n < 0 then (.ioError, logRec .rxIoerr n s)
  else if n = 0 then (.timeout, logRec .rxTimeout 0 s)
  else if n < max m 9 then (.shortRead, logRec .shortRead n s)
  else if checkRc = false then (.ok, { s with result := BitVec.ofInt 64 n })
  else
    let h := readHex 7 2 s
    let t := { h.2 with rc := BitVec.ofNat 8 h.1 }
    if h.1 ≠ 0 then
      (.rejected, logRec .rejected h.1 { t with result := BitVec.ofNat 64 (causeIndex h.1) })
    else (.ok, { t with result := BitVec.ofInt 64 n })

/-- `chklen()` (41_codec.md R112). -/
def checkLength (s : State) : OutcomeCode × State :=
  let n := s.rxlen.toInt
  if n < 0 then (.ioError, logRec .rxIoerr n s)
  else if n = 0 then (.timeout, logRec .rxTimeout 0 s)
  else if n < 13 then (.shortRead, logRec .shortRead n s)
  else
    let f := readBytes .rx 9 4 s
    match parseHex f.1 with
    | none => (.badLchk, logRec .badLchk 0 f.2)
    | some w =>
      let l := w % 4096
      let t := { f.2 with result := BitVec.ofNat 64 l }
      if (w / 4096 + nib l 0 + nib l 1 + nib l 2) % 16 ≠ 0 then (.badLchk, logRec .badLchk w t)
      else (.ok, t)

/-- `chksum()` (41_codec.md R115). -/
def checkSum (s : State) : OutcomeCode × State :=
  let c := checkLength s
  if c.1 ≠ .ok then c
  else
    let n := s.rxlen.toInt
    let l := c.2.result.toNat
    if maxPayload < l then (.badLchk, logRec .badLchk l c.2)
    else if n < 17 + l then (.shortRead, logRec .shortRead n c.2)
    else
      let cov := readBytes .rx 1 (12 + l) c.2
      let f := readBytes .rx (13 + l) 4 cov.2
      match parseHex f.1 with
      | none => (.badChk, logRec .badChk 0 f.2)
      | some v =>
        let t := { f.2 with result := BitVec.ofNat 64 v }
        if (sum16 cov.1 + v) % 65536 ≠ 0 then (.badChk, logRec .badChk v t)
        else (.ok, t)

/-- `accept(m, checkRc)` (41_codec.md R118). -/
def accept (m : Nat) (checkRc : Bool) (s : State) : OutcomeCode × State :=
  let a := validate m checkRc s
  if a.1 = .ok ∧ s.cfg.verifyRx = true then
    let c := checkSum a.2
    if c.1 = .ok then (.ok, { c.2 with result := BitVec.ofInt 64 c.2.rxlen.toInt }) else c
  else a

/-! ## The exchange -/

/-- The frame of an exchange or a BUILD, put into TXBUF (41_codec.md R100, 43_exchange_dispatch.md R150): TX[0..17+L] and TXLEN. -/
def putFrame (c p : List Byte) (s : State) : State :=
  { s with
    tx := Memory.writeAll s.tx 0 (buildFrame s.cfg c (chars2 s.ver) (chars2 s.adr) p)
    txlen := BitVec.ofNat 8 (18 + p.length) }

/-- An exchange that failed, in its send or its receive (43_exchange_dispatch.md R150): a log record, RXLEN 0 or −1, and no byte of RXBUF keeps a value, since all of them lie from index RXLEN upward (70_reset_and_hazards.md R264; DEDUCED, log 20, safe). -/
def failExchange (code : LogCode) (arg : Int) (n : BitVec 16) (s : State) : State :=
  { logRec code arg s with rxlen := n, rx := [] }

/-- The receive of an exchange (43_exchange_dispatch.md R150): one receive of at most 128 bytes; the bytes of RXBUF above the reply become unspecified. -/
def receiveReply (s : State) : State :=
  let a := transportRecv 128 s
  let q := RecvAnswer.result a.1 128
  if q = 0 then failExchange .rxTimeout 0 0 a.2
  else if q < 0 then failExchange .rxIoerr q (-1) a.2
  else { a.2 with rx := Memory.writeAll [] 0 (RecvAnswer.data a.1 128), rxlen := BitVec.ofInt 16 q }

/-- `exchange(c, p)` (43_exchange_dispatch.md R150): flush, build, send, one receive. -/
def exchange (c p : List Byte) (s : State) : State :=
  let t := putFrame c p (transportFlush s)
  let r := transportSend (buildFrame t.cfg c (chars2 t.ver) (chars2 t.adr) p) t
  if r.1 = 0 then failExchange .txTimeout 0 0 r.2
  else if r.1 < 0 then failExchange .txIoerr r.1 (-1) r.2
  else receiveReply r.2

/-- One attempt (43_exchange_dispatch.md R162): a whole exchange followed by acceptance. -/
def exchangeAccept (c p : List Byte) (m : Nat) (checkRc : Bool) (s : State) : OutcomeCode × State :=
  accept m checkRc (exchange c p s)

/-- The bounded-attempt loop (43_exchange_dispatch.md R162): the attempts numbered in `as`, one after another, until one is OK. It answers OK, or the outcome of the last attempt (`last` if there is none). -/
def retry (attempt : State → OutcomeCode × State) (as : List Nat) (last : OutcomeCode) (s : State) : OutcomeCode × State :=
  match as with
  | [] => (last, s)
  | a :: rest =>
    let r := attempt { s with attempts := BitVec.ofNat 8 a }
    if r.1 = .ok then r else retry attempt rest r.1 r.2

end Sys2Proof.Machine
end

