-- ==== Sys2Proof/Machine/Codec.lean ====
section
/-! DEFINITION. The commands that build and checksum frames: BUILD, LCHK, PCHK (41_codec.md section 2). -/

namespace Sys2Proof.Machine

/-- BUILD in a mode that allows it (41_codec.md R100). -/
def buildBody (s : State) : State :=
  let l := s.pllen.toNat
  if maxPayload < l then finish .badArgument s
  else
    let p := readBytes .pl 0 l s
    finish .ok (putFrame (chars4 s.cid) p.1 p.2)

/-- BUILD (41_codec.md R100). -/
def execBuild (s : State) : Host.Outcome State Fault Refusal := runIn .untilFatal buildBody s

/-- LCHK in a mode that allows it (41_codec.md R102). -/
def lchkBody (l12 : Nat) (s : State) : State :=
  finish .ok { s with result := BitVec.ofNat 64 (lenWord l12) }

/-- LCHK (41_codec.md R102). -/
def execLchk (l12 : Nat) (s : State) : Host.Outcome State Fault Refusal := runIn .untilFatal (lchkBody l12) s

/-- PCHK in a mode that allows it (41_codec.md R104). -/
def pchkBody (sel : BufSel) (off len : Nat) (s : State) : State :=
  if 128 < off + len then finish .badArgument s
  else
    let r := readBytes (bufOfSel sel) off len s
    finish .ok { r.2 with result := BitVec.ofNat 64 (pchk r.1) }

/-- PCHK (41_codec.md R104). -/
def execPchk (sel : BufSel) (off len : Nat) (s : State) : Host.Outcome State Fault Refusal :=
  runIn .untilFatal (pchkBody sel off len) s

end Sys2Proof.Machine
end

