-- ==== Sys2Proof/Machine/Dispatcher.lean ====
section
/-! DEFINITION. The commands that talk to the device: EXCHANGE, EXECUTE, PROBE (43_exchange_dispatch.md). -/

namespace Sys2Proof.Machine

/-- The outcome of an EXCHANGE from its transport result (43_exchange_dispatch.md R151). -/
def exchangeOutcome (n : Int) : OutcomeCode :=
  if n < 0 then .ioError else if n = 0 then .timeout else .ok

/-- EXCHANGE in a mode that allows it (43_exchange_dispatch.md R151). -/
def exchangeBody (s : State) : State :=
  let l := s.pllen.toNat
  if maxPayload < l then finish .badArgument s
  else
    let p := readBytes .pl 0 l s
    let t := exchange (chars4 s.cid) p.1 p.2
    finish (exchangeOutcome t.rxlen.toInt) t

/-- EXCHANGE (43_exchange_dispatch.md R151). -/
def execExchange (s : State) : Host.Outcome State Fault Refusal := runIn .untilFatal exchangeBody s

/-- The attempts of an EXECUTE (43_exchange_dispatch.md R160): at most three, each accepted with `accept(13, true)`. -/
def executeAttempts (code : List Byte) (s : State) : OutcomeCode × State :=
  retry (exchangeAccept (asciiChars4 s.cfg.cidRemote) code 13 true) [1, 2, 3] .ok s

/-- EXECUTE in a mode that allows it (43_exchange_dispatch.md R160). -/
def executeBody (idx : Nat) (s : State) : State :=
  match cmdCode s.cfg idx with
  | none => finish .unknownCommand (logRec .unknownCmd idx s)
  | some code =>
    let r := executeAttempts code s
    if r.1 = .ok then finish .ok { r.2 with phase := .sysparam }
    else finish .commandFailed (logRec .cmdFailed idx { r.2 with result := BitVec.ofNat 64 r.1.code })

/-- EXECUTE (43_exchange_dispatch.md R160). -/
def execExecute (idx : Nat) (s : State) : Host.Outcome State Fault Refusal :=
  runIn .runningOnly (executeBody idx) s

/-- The attempts of a PROBE (43_exchange_dispatch.md R170): at most three, each accepted with `accept(35, PROBE_CHECKS_RC)`. -/
def probeAttempts (s : State) : OutcomeCode × State :=
  retry (exchangeAccept (asciiChars4 s.cfg.cidVendor) (payloadChars s.cfg.reqVendor) 35 s.cfg.probeChecksRc) [1, 2, 3] .ok s

/-- What PROBE does with an accepted reply (43_exchange_dispatch.md R170): the vendor name into STRBUF and to the store, MODE and PHASE. -/
def probeIdentify (s : State) : State :=
  let r := readBytes .rx s.cfg.nameOff 20 s
  let d := strFromHex r.1 20 (nameCap s.cfg) r.2
  { emit (.fact .vendorName (.text d.1)) { d.2 with strlen := BitVec.ofNat 8 d.1.length } with
    mode := .running
    phase := .sysparam }

/-- PROBE in a mode that allows it (43_exchange_dispatch.md R170). -/
def probeBody (s : State) : State :=
  let r := probeAttempts s
  if r.1 = .ok then finish .ok (probeIdentify r.2)
  else finish .fatal { logRec .probeFatal 0 r.2 with mode := .fatal }

/-- PROBE (43_exchange_dispatch.md R170). -/
def execProbe (s : State) : Host.Outcome State Fault Refusal := runIn .uninitOnly probeBody s

end Sys2Proof.Machine
end

