-- ==== Sys2Proof/Machine/HexField.lean ====
section
/-! DEFINITION. The hex field decoder's commands: HEX2VAL and HEX2STR (42_hexdecode.md). -/

namespace Sys2Proof.Machine

/-- HEX2VAL in a mode that allows it (42_hexdecode.md R131): the length check comes first. -/
def hex2valBody (off len : Nat) (s : State) : State :=
  if 15 < len then finish .ok { s with result := 0 }
  else if 128 < off + len then finish .badArgument s
  else
    let r := readHex off len s
    finish .ok { r.2 with result := BitVec.ofNat 64 r.1 }

/-- HEX2VAL (42_hexdecode.md R131). -/
def execHex2val (off len : Nat) (s : State) : Host.Outcome State Fault Refusal :=
  runIn .untilFatal (hex2valBody off len) s

/-- HEX2STR in a mode that allows it (42_hexdecode.md R135). -/
def hex2strBody (off len cap : Nat) (s : State) : State :=
  if cap = 0 ∨ 128 < cap then finish .badArgument s
  else if 128 < off + len then finish .badArgument s
  else
    let r := readBytes .rx off len s
    let d := strFromHex r.1 len cap r.2
    finish .ok { d.2 with strlen := BitVec.ofNat 8 d.1.length }

/-- HEX2STR (42_hexdecode.md R135). -/
def execHex2str (off len cap : Nat) (s : State) : Host.Outcome State Fault Refusal :=
  runIn .untilFatal (hex2strBody off len cap) s

end Sys2Proof.Machine
end

