-- ==== Sys2Proof/Machine/Poll.lean ====
section
/-! DEFINITION. The polling state machine: TICK, its four phase handlers and the transition rule (44_pollfsm.md). -/

namespace Sys2Proof.Machine

open Sys2Proof.Config

/-- `if f ∈ F: S.emit(STATUS_SET(f))` (44_pollfsm.md R194, R196). -/
def emitIf (c : Bool) (e : StoreEvent) (s : State) : State := if c then emit e s else s

/-- A status transaction that commits the set `f` (44_pollfsm.md R194, R196): INIT, the flags in the order ON_LINE, ON_BATTERY, BYPASS, COMMIT. -/
def commitStatus (f : StatusSet) (s : State) : State :=
  emit .statusCommit
    (emitIf f.bypass (.statusSet .bypass)
      (emitIf f.onBattery (.statusSet .onBattery)
        (emitIf f.onLine (.statusSet .onLine) (emit .statusInit s))))

/-- `log(c, v)` where the map gave ANOMALY (44_pollfsm.md R194, R202). -/
def logAnomaly {α : Type} (r : Option α) (c : LogCode) (v : Nat) (s : State) : State :=
  match r with
  | none => logRec c v s
  | some _ => s

/-- What a status field contributes to the status set: nothing where it is an ANOMALY (44_pollfsm.md R194). -/
def mappedStatus (r : Option StatusSet) : StatusSet := r.getD StatusSet.empty

/-- `log` on ANOMALY, else the fact (44_pollfsm.md R194). -/
def publishMapped (r : Option FactValue) (c : LogCode) (code : Nat) (id : FactId) (s : State) : State :=
  match r with
  | none => logRec c code s
  | some v => emit (.fact id v) s

/-- The ONOFF handler's decoded fields (44_pollfsm.md R194). -/
structure OnoffFields where
  p : Nat
  r : Nat
  c : Nat
  t : Nat

/-- The four reads of the ONOFF handler (44_pollfsm.md R194). -/
def readOnoff (s : State) : OnoffFields × State :=
  let p := readHexByte (headerLen + s.cfg.onoffLayout.psrc) s
  let r := readHexByte (headerLen + s.cfg.onoffLayout.rsrc) p.2
  let c := readHexByte (headerLen + s.cfg.onoffLayout.chg) r.2
  let t := readHexByte (headerLen + s.cfg.onoffLayout.test) c.2
  ({ p := p.1, r := r.1, c := c.1, t := t.1 }, t.2)

/-- What the ONOFF handler publishes for its fields (44_pollfsm.md R194). -/
def publishOnoff (f : OnoffFields) (s : State) : State :=
  let mp := mapCode s.cfg.statusMapP f.p
  let mr := mapCode s.cfg.statusMapR f.r
  let set := StatusSet.union (mappedStatus mp) (mappedStatus mr)
  let s1 := emit .statusInit s
  let s2 := logAnomaly mr .anomalyRsrc f.r (logAnomaly mp .anomalyPsrc f.p s1)
  let s3 := emitIf set.bypass (.statusSet .bypass)
    (emitIf set.onBattery (.statusSet .onBattery) (emitIf set.onLine (.statusSet .onLine) s2))
  let s4 := emit .statusCommit s3
  let s5 := publishMapped ((mapCharger s.cfg.chgMap f.c).map .charger) .anomalyChg f.c .chargerStatus s4
  publishMapped ((mapCode s.cfg.testMap f.t).map .test) .anomalyTest f.t .batteryTest s5

/-- The ONOFF handler (44_pollfsm.md R194). -/
def onoffHandler (df : Nat) (s : State) : Phase × State :=
  let r := readOnoff s
  (flagOverride s.cfg df .analog, publishOnoff r.1 r.2)

/-- One fact of the ANALOG handler (44_pollfsm.md R195): its raw value, and the state with the fact published. -/
def publishAnalog (k : AnalogFact) (s : State) : Nat × State :=
  let r := readHex (analogOffset s.cfg.analogLayout k) 4 s
  (r.1, emit (.fact (.analog k) (.number (r.1 * analogScale k))) r.2)

/-- The analog facts in the given order (44_pollfsm.md R195). -/
def publishAnalogs (ks : List AnalogFact) (s : State) : State :=
  match ks with
  | [] => s
  | k :: rest => publishAnalogs rest (publishAnalog k s).2

/-- The facts after INPUT_VOLTAGE, in the order of 44_pollfsm.md R195's table. -/
def laterAnalogFacts : List AnalogFact :=
  [.outputVoltage, .outputCurrent, .batteryVoltage, .outputFrequency, .inputFrequency, .realpower, .apparentPower, .runtimeLow]

/-- The status set that the correction of 44_pollfsm.md R196 commits, or `none` where it does nothing. -/
def correctedStatus (vin : Nat) (ss : StatusSet) : Option StatusSet :=
  if vin = 0 ∧ ss.onLine = true then some { onLine := false, onBattery := true, bypass := ss.bypass }
  else if vin ≠ 0 ∧ ss.onBattery = true then some { onLine := true, onBattery := false, bypass := ss.bypass }
  else none

/-- `correct(vin, nx)` (44_pollfsm.md R196): its queries ask the store's committed status set. -/
def correct (vin : Nat) (nx : Phase) (s : State) : Phase × State :=
  match correctedStatus vin { onLine := query .onLine s, onBattery := query .onBattery s, bypass := query .bypass s } with
  | none => (nx, s)
  | some new => (.warning, logRec .statusCorrected vin (commitStatus new s))

/-- The ANALOG handler (44_pollfsm.md R195). -/
def analogHandler (df : Nat) (s : State) : Phase × State :=
  let v := publishAnalog .inputVoltage s
  correct v.1 (flagOverride s.cfg df .warning) (publishAnalogs laterAnalogFacts v.2)

/-- One slot of the WARNING handler (44_pollfsm.md R197): a placeholder is not read. -/
def warnSlot (i : Fin 26) (s : State) : State :=
  match s.cfg.warnName.slots.get i with
  | none => s
  | some _ =>
    let v := readHexByte (warnBaseOffset s.cfg + 2 * i.val) s
    if warnActive v.1 then emit (.alarmSet i) v.2
    else if v.1 = 0 then v.2
    else logRec .anomalyWarn (256 * i.val + v.1 : Nat) v.2

/-- The slots in the given order (44_pollfsm.md R197). -/
def warnSlots (is : List (Fin 26)) (s : State) : State :=
  match is with
  | [] => s
  | i :: rest => warnSlots rest (warnSlot i s)

/-- The WARNING handler (44_pollfsm.md R197). -/
def warningHandler (s : State) : Phase × State :=
  (.onoff, emit .alarmCommit (warnSlots (List.finRange 26) (emit .alarmInit s)))

/-- The SYSPARAM handler's raw fields (44_pollfsm.md R198). -/
structure SysFields where
  nv : Nat
  nf : Nat
  bh : Nat
  bhe : Nat
  bl : Nat
  ble : Nat
  ti : Nat

/-- A SYSPARAM field (44_pollfsm.md R198): a two-character field is taken mod 256 (section 3). -/
def readSysField (f : SysField) (s : State) : Nat × State :=
  match f with
  | .two _ => readHexByte (sysOffset f) s
  | .four _ => readHex (sysOffset f) 4 s

/-- The seven reads of the SYSPARAM handler (44_pollfsm.md R198). -/
def readSys (s : State) : SysFields × State :=
  let l := s.cfg.sysLayout
  let nv := readSysField l.nomv s
  let nf := readSysField l.nomf nv.2
  let bh := readSysField l.byph nf.2
  let bhe := readSysField l.byphe bh.2
  let bl := readSysField l.bypl bhe.2
  let ble := readSysField l.byple bl.2
  let ti := readSysField l.tint ble.2
  ({ nv := nv.1, nf := nf.1, bh := bh.1, bhe := bhe.1, bl := bl.1, ble := ble.1, ti := ti.1 }, ti.2)

/-- What the SYSPARAM handler publishes for its fields (44_pollfsm.md R198): a threshold only if its enable field equals 1. -/
def publishSys (f : SysFields) (s : State) : State :=
  let k := s.cfg.sysScale
  let s1 := emit (.fact .nominalOutputVoltage (.number (f.nv * scalingValue k.nomv))) s
  let s2 := emit (.fact .nominalOutputFrequency (.number (f.nf * scalingValue k.nomf))) s1
  let s3 := emitIf (f.bhe == 1) (.fact .bypassHighThreshold (.number (f.bh * scalingValue k.byph))) s2
  let s4 := emitIf (f.ble == 1) (.fact .bypassLowThreshold (.number (f.bl * scalingValue k.bypl))) s3
  emit (.fact .batteryTestInterval (.number (f.ti * 3 * 108000))) s4

/-- The SYSPARAM handler (44_pollfsm.md R198). -/
def sysparamHandler (s : State) : Phase × State :=
  let r := readSys s
  (.warning, publishSys r.1 r.2)

/-- The handler of a phase (44_pollfsm.md R180): the next phase, and the state with the batch published. -/
def phaseHandler (ph : Phase) (df : Nat) (s : State) : Phase × State :=
  match ph with
  | .onoff => onoffHandler df s
  | .analog => analogHandler df s
  | .warning => warningHandler s
  | .sysparam => sysparamHandler s

/-- What a tick does with an accepted reply (44_pollfsm.md R180): the data flag (R183), the phase's handler, the next phase, MARK_FRESH. -/
def tickPublish (ph : Phase) (s : State) : State :=
  let d := readHexByte (dataflagOffset s.cfg) s
  let h := phaseHandler ph d.1 { d.2 with dataflag := BitVec.ofNat 8 d.1 }
  emit .markFresh { h.2 with phase := h.1 }

/-- TICK in a mode that allows it (44_pollfsm.md R180). -/
def tickBody (s : State) : State :=
  let r := exchangeAccept (asciiChars4 (reqCid s.cfg s.phase)) (reqPayload s.cfg s.phase) (minReply s.phase) true s
  if r.1 = .ok then finish .ok (tickPublish s.phase r.2)
  else finish r.1 (emit .markStale r.2)

/-- TICK (44_pollfsm.md R180). -/
def execTick (s : State) : Host.Outcome State Fault Refusal := runIn .runningOnly tickBody s

end Sys2Proof.Machine
end

