-- ==== Sys2Proof/Machine/Validator.lean ====
section
/-! DEFINITION. The commands that check a received frame: VALIDATE, CHKLEN, CHKSUM (41_codec.md sections 3 and 4). They check nothing else of the reply (41_codec.md R109). -/

namespace Sys2Proof.Machine

/-- VALIDATE in a mode that allows it (41_codec.md R107). -/
def validateBody (minlen : Nat) (s : State) : State :=
  let r := validate minlen true s
  finish r.1 r.2

/-- VALIDATE (41_codec.md R107). -/
def execValidate (minlen : Nat) (s : State) : Host.Outcome State Fault Refusal :=
  runIn .untilFatal (validateBody minlen) s

/-- CHKLEN in a mode that allows it (41_codec.md R112). -/
def chklenBody (s : State) : State :=
  let r := checkLength s
  finish r.1 r.2

/-- CHKLEN (41_codec.md R112). -/
def execChklen (s : State) : Host.Outcome State Fault Refusal := runIn .untilFatal chklenBody s

/-- CHKSUM in a mode that allows it (41_codec.md R115). -/
def chksumBody (s : State) : State :=
  let r := checkSum s
  finish r.1 r.2

/-- CHKSUM (41_codec.md R115). -/
def execChksum (s : State) : Host.Outcome State Fault Refusal := runIn .untilFatal chksumBody s

end Sys2Proof.Machine
end

