-- ==== Sys2Proof/Machine/Dispatch.lean ====
section
/-! DEFINITION. One arm per command (30_encoding.md R73): each calls that command's meaning. -/

namespace Sys2Proof.Machine

def exec (i : Instr) (s : State) : Host.Outcome State Fault Refusal :=
  match i with
  | .build => Sys2Proof.Machine.execBuild s
  | .lchk l12 => Sys2Proof.Machine.execLchk l12 s
  | .pchk sel off len => Sys2Proof.Machine.execPchk sel off len s
  | .validate minlen => Sys2Proof.Machine.execValidate minlen s
  | .chklen => Sys2Proof.Machine.execChklen s
  | .chksum => Sys2Proof.Machine.execChksum s
  | .hex2val off len => Sys2Proof.Machine.execHex2val off len s
  | .hex2str off len cap => Sys2Proof.Machine.execHex2str off len cap s
  | .exchange => Sys2Proof.Machine.execExchange s
  | .execute idx => Sys2Proof.Machine.execExecute idx s
  | .tick => Sys2Proof.Machine.execTick s
  | .probe => Sys2Proof.Machine.execProbe s

end Sys2Proof.Machine
end

