-- ==== Sys2Proof/Machine/HostPort.lean ====
section
/-! DEFINITION. What the host and the platform can do to the block between its steps: register and buffer accesses (20_memory.md R51 to R53, R57, R61; 10_state.md section 3), issuing a command (R60), and reset (70_reset_and_hazards.md R250). -/

namespace Sys2Proof.Machine

/-- What stands at a mapped address (20_memory.md R52): a register, or the word of a buffer window that begins at byte `i`. -/
inductive HostReg where
  | cmd
  | status
  | outcome
  | resultLo
  | resultHi
  | rc
  | phase
  | adr
  | ver
  | cid
  | pllen
  | txlen
  | rxlen
  | strlen
  | dataflag
  | attempts
  | window (b : Buf) (i : Nat)
  deriving DecidableEq, Repr

/-- The buffer window an aligned address lies in (20_memory.md R52). -/
def windowAt (a : Nat) : Option HostReg :=
  if 0x100 ≤ a ∧ a ≤ 0x17F then some (.window .tx (a - 0x100))
  else if 0x200 ≤ a ∧ a ≤ 0x27F then some (.window .rx (a - 0x200))
  else if 0x300 ≤ a ∧ a ≤ 0x36F then some (.window .pl (a - 0x300))
  else if 0x400 ≤ a ∧ a ≤ 0x47F then some (.window .str (a - 0x400))
  else none

/-- The host register map (20_memory.md R52) at an aligned address. -/
def registerAt (a : Nat) : Option HostReg :=
  match a with
  | 0x000 => some .cmd
  | 0x004 => some .status
  | 0x008 => some .outcome
  | 0x00C => some .resultLo
  | 0x010 => some .resultHi
  | 0x014 => some .rc
  | 0x018 => some .phase
  | 0x01C => some .adr
  | 0x020 => some .ver
  | 0x024 => some .cid
  | 0x028 => some .pllen
  | 0x02C => some .txlen
  | 0x030 => some .rxlen
  | 0x034 => some .strlen
  | 0x038 => some .dataflag
  | 0x03C => some .attempts
  | _ => windowAt a

/-- What a host access of `width` bits at `addr` reaches (20_memory.md R51): `none` if it is not 32 bits wide, not a multiple of 4, or not in the map. -/
def hostTarget (width : Nat) (addr : BitVec 12) : Option HostReg :=
  if width = 32 ∧ addr.toNat % 4 = 0 then registerAt addr.toNat else none

/-- STATUS's address (20_memory.md R52). -/
def statusAddr : BitVec 12 := 0x004

/-- One byte of a buffer window (10_state.md R38): PLBUF's bytes 110 and 111 read 0. -/
def windowByte (b : Buf) (i : Nat) (s : State) : Byte × State :=
  if i < b.size then readByte b i s else (0, s)

/-- The word of a buffer window, little-endian (20_memory.md R53). -/
def readWindow (b : Buf) (i : Nat) (s : State) : Word × State :=
  let b0 := windowByte b i s
  let b1 := windowByte b (i + 1) b0.2
  let b2 := windowByte b (i + 2) b1.2
  let b3 := windowByte b (i + 3) b2.2
  (b3.1 ++ b2.1 ++ b1.1 ++ b0.1, b3.2)

/-- What a host read of a register gives (10_state.md section 3); reads have no side effect on the block (20_memory.md R57). -/
def readReg (r : HostReg) (s : State) : Word × State :=
  match r with
  | .cmd => (0, s)
  | .status => (statusWord s, s)
  | .outcome => (BitVec.ofNat 32 s.outcome.code, s)
  | .resultLo => (s.result.extractLsb' 0 32, s)
  | .resultHi => (s.result.extractLsb' 32 32, s)
  | .rc => (s.rc.setWidth 32, s)
  | .phase => (BitVec.ofNat 32 s.phase.code, s)
  | .adr => (s.adr.setWidth 32, s)
  | .ver => (s.ver.setWidth 32, s)
  | .cid => (s.cid, s)
  | .pllen => (s.pllen.setWidth 32, s)
  | .txlen => (s.txlen.setWidth 32, s)
  | .rxlen => (s.rxlen.signExtend 32, s)
  | .strlen => (s.strlen.setWidth 32, s)
  | .dataflag => (s.dataflag.setWidth 32, s)
  | .attempts => (s.attempts.setWidth 32, s)
  | .window b i => readWindow b i s

/-- A host read (20_memory.md R51, R57, R61): while BUSY = 1 any address but STATUS gives a free value; an access R51 does not admit sets BUSERR, and reads 0 where R61 does not make it free (log 8). -/
def hostRead (width : Nat) (addr : BitVec 12) (s : State) : State :=
  let t := match hostTarget width addr with
    | none => { s with buserr := true }
    | some _ => s
  if s.busy = true ∧ addr ≠ statusAddr then
    let d := draw t
    { d.2 with hostData := d.1.setWidth 32 }
  else
    match hostTarget width addr with
    | none => { t with hostData := 0 }
    | some r =>
      let v := readReg r t
      { v.2 with hostData := v.1 }

/-- An accepted CMD write (20_memory.md R60). -/
def issue (w : Word) (s : State) : State := { s with pending := w, busy := true, done := false }

/-- The four bytes of a word, little-endian (20_memory.md R53). -/
def wordBytes (w : Word) : List Byte := chars4 w

/-- What an admitted host write does while BUSY = 0 (10_state.md section 3, 20_memory.md R52): registers marked R ignore it; ADDR takes it only in UNINIT (10_state.md R29). -/
def writeReg (r : HostReg) (v : Word) (s : State) : State :=
  match r with
  | .cmd => issue v s
  | .status => clearSticky v s
  | .adr => (match s.mode with
      | .uninit => { s with adr := v.setWidth 16 }
      | .running => s
      | .fatal => s)
  | .cid => { s with cid := v }
  | .pllen => { s with pllen := v.setWidth 8 }
  | .rxlen => { s with rxlen := v.setWidth 16 }
  | .window .rx i => { s with rx := Memory.writeAll s.rx i (wordBytes v) }
  | .window .pl i => { s with pl := Memory.writeAll s.pl i ((wordBytes v).take (Buf.pl.size - i)) }
  | .window .tx _ => s
  | .window .str _ => s
  | .outcome => s
  | .resultLo => s
  | .resultHi => s
  | .rc => s
  | .phase => s
  | .ver => s
  | .txlen => s
  | .strlen => s
  | .dataflag => s
  | .attempts => s

/-- A host write (20_memory.md R51, R60, R61): while BUSY = 1 a write to any address but STATUS is ignored and sets OVERRUN; an access R51 does not admit is ignored and sets BUSERR (log 8). -/
def hostWrite (width : Nat) (addr : BitVec 12) (v : Word) (s : State) : State :=
  let t := match hostTarget width addr with
    | none => { s with buserr := true }
    | some _ => s
  if s.busy = true ∧ addr ≠ statusAddr then { t with overrun := true }
  else
    match hostTarget width addr with
    | none => t
    | some r => writeReg r v t

/-- A reset of the block (70_reset_and_hazards.md R250): every register and buffer at its reset value, no pending command; the store, the transport, the log and the parameters keep their state, and so do the model's own turns, host data and counter of free values. -/
def blockReset (s : State) : State :=
  { State.resetOf s.cfg with
    store := s.store
    transport := s.transport
    log := s.log
    turns := s.turns
    hostData := s.hostData
    draws := s.draws }

end Sys2Proof.Machine
end

