-- ==== Sys2Proof/Machine/BlockStep.lean ====
section
/-! DEFINITION. The steps of the agents (10_state.md R20): the block decodes and executes the pending command (20_memory.md R60, 30_encoding.md R71), the host accesses the block, the platform resets it. -/

namespace Sys2Proof.Machine

/-- Decode the pending word and execute it; a word that does not decode finishes ILLEGAL_COMMAND (30_encoding.md R71). -/
def runPending (s : State) : Host.Outcome State Fault Refusal :=
  match decode s.pending with
  | .ok i => exec i s
  | .illegalOpcode _ => .next (finish .illegalCommand s)
  | .reservedBits _ => .next (finish .illegalCommand s)

/-- The block's turn (20_memory.md R60): it takes no step while BUSY = 0 (log 7). -/
def blockStep (s : State) : Host.Outcome State Fault Refusal :=
  if s.busy = true then runPending s else .next s

/-- One turn of the total order of 20_memory.md R62. -/
def takeTurn (t : Turn) (s : State) : Host.Outcome State Fault Refusal :=
  match t with
  | .block => blockStep s
  | .hostRead width addr => .next (hostRead width addr s)
  | .hostWrite width addr v => .next (hostWrite width addr v s)
  | .reset => .next (blockReset s)

/-- The next turn, and the state without it: the first one listed, or the block's where none is (log 7). -/
def nextTurn (s : State) : Turn × State :=
  match s.turns with
  | [] => (.block, s)
  | t :: rest => (t, { s with turns := rest })

/-- The turns after which the block's turn comes next, everything else as it is. -/
def withBlockTurn (s : State) : State :=
  match s.turns with
  | [] => s
  | .block :: _ => s
  | _ :: _ => { s with turns := .block :: s.turns }

/-- A command word accepted as a CMD write would accept it (20_memory.md R60), and the block's turn next. -/
def withCommand (w : Word) (s : State) : State := withBlockTurn (issue w s)

end Sys2Proof.Machine
end

