-- ==== Sys2Proof/Machine/Step.lean ====
section
/-! DEFINITION. One step of the machine: one turn of the total order of 20_memory.md R62. -/

namespace Sys2Proof.Machine

/-- One step: the next turn is taken (20_memory.md R56, R62). -/
def step (s : State) : Host.Outcome State Fault Refusal :=
  takeTurn (nextTurn s).1 (nextTurn s).2

/-- `s` with the command word whose low `nbits` bits are those of `w` issued, so that the very next step runs it (20_memory.md R60; log 6): there is no fetch (R65), a command arrives through CMD. -/
def State.withFetchWord (s : State) (nbits w : Nat) : State := withCommand (tableWord nbits w) s

end Sys2Proof.Machine
end

