-- ==== Sys2Proof/Safety.lean ====
section
/-! DEFINITION. What holds of the machine at every step of every run: the buffers stay inside their sizes and in canonical form, and the registers stay in the ranges the spec gives them. -/

namespace Sys2Proof.Machine

/-- A buffer is in canonical form and lists no index past its size (10_state.md R38, 20_memory.md R55). -/
def bufferOk (m : Memory) (size : Nat) : Prop := Memory.wf m ∧ ∀ c ∈ m, c.1 < size

/-- The invariant of the machine. -/
structure Inv (s : State) : Prop where
  /-- every buffer is canonical and inside its size (10_state.md R38, 20_memory.md R55) -/
  buffers : ∀ b : Buf, bufferOk (s.buf b) b.size
  /-- a command is not both pending and finished (20_memory.md R60, 60_exceptions.md R221) -/
  handshake : ¬(s.busy = true ∧ s.done = true)
  /-- VER is constant (10_state.md R30) -/
  version : s.ver = asciiReg2 s.cfg.protoVer
  /-- TXLEN is 0 or the length of a frame, 18 to 128 (10_state.md R34, 30_encoding.md R86) -/
  txlen : s.txlen = 0 ∨ (18 ≤ s.txlen.toNat ∧ s.txlen.toNat ≤ 128)
  /-- STRBUF's string and its terminator fit (42_hexdecode.md R134, R135) -/
  strlen : s.strlen.toNat < 128
  /-- ATTEMPTS is 0 to 3 (10_state.md R37) -/
  attempts : s.attempts.toNat ≤ 3
  /-- outside RUNNING no tick has run, so PHASE is SYSPARAM (10_state.md R31, 60_exceptions.md R226) -/
  phase : s.mode = .running ∨ s.phase = .sysparam
  /-- outside RUNNING no tick has run, so DATAFLAG is 0 (10_state.md R36, 60_exceptions.md R226) -/
  dataflag : s.mode = .running ∨ s.dataflag = 0
  /-- before the probe nothing made an attempt (10_state.md R37, 60_exceptions.md R226) -/
  unprobed : s.mode ≠ .uninit ∨ s.attempts = 0

end Sys2Proof.Machine
end

