-- ==== Sys2Proof/Certificates/Slice0/Obligations.lean ====
section
/-! DEFINITION. The statements for the provers. The helpers before them say in the spec's own terms what a statement needs: what reading a buffer gives, what a hex field decodes to, how a command ends. A statement that gives the log exactly gives the records of the rule's pseudocode, whose number and order are the spec's own choice (60_exceptions.md R232, log 10); `EveryFailureIsLogged` is what that rule asks a claim on the log to rest on. The turns to come and the data of the last host read are the model's own fields (log 7, log 12), as is the counter of free values (log 1): where a statement leaves that counter open, any value was drawn. -/

namespace Sys2Proof.Machine

open Sys2Proof.Config

/-! ## The terms of the statements -/

/-- `bs` is what reading a buffer from `off` on can give (10_state.md R38): at every index that was written the byte written there, at any other index any byte. -/
def Reads (m : Memory) (off : Nat) (bs : List Byte) : Prop :=
  ∀ i v, i < bs.length → Memory.read m (off + i) = some v → bs[i]? = some v

/-- A buffer holds the bytes `bs` from `off` on, all of them written. -/
def Holds (m : Memory) (off : Nat) (bs : List Byte) : Prop :=
  ∀ i, i < bs.length → Memory.read m (off + i) = bs[i]?

/-- Only the bytes `bs` from index 0 on were stored: every other index reads as before. -/
def Stored (before after : Memory) (bs : List Byte) : Prop :=
  ∀ i, Memory.read after i = if i < bs.length then bs[i]? else Memory.read before i

/-- A buffer holds exactly the bytes `bs` and nothing after them (43_exchange_dispatch.md R150). -/
def HoldsOnly (m : Memory) (bs : List Byte) : Prop := ∀ i, Memory.read m i = bs[i]?

/-- `v` is a value `hexval` can give for at most 15 characters (42_hexdecode.md R130): their value where all are hex digits, any 64-bit value where not. -/
def HexValue (bs : List Byte) (v : Nat) : Prop :=
  match parseHex bs with
  | some x => v = x
  | none => v < 2 ^ 64

/-- `v` is a value a two-character field can have (44_pollfsm.md section 3): its value where both are hex digits, any byte where not. -/
def ByteField (bs : List Byte) (v : Nat) : Prop :=
  match parseHex bs with
  | some x => v = x
  | none => v < 256

/-- Whether some character is not a hex digit. -/
def hasNonhex (bs : List Byte) : Bool := (parseHex bs).isNone

/-- The `len` characters of a reply from frame offset `off` on. -/
def charsAt (reply : List Byte) (off len : Nat) : List Byte := (reply.drop off).take len

/-- The command ended with outcome `o` (60_exceptions.md R221). -/
def ended (o : OutcomeCode) (s : State) : State := { s with outcome := o, busy := false, done := true }

/-- The command ended with outcome `o`, having appended the record (c, a) to the log. -/
def endedLog (o : OutcomeCode) (c : LogCode) (a : Int) (s : State) : State :=
  { s with log := s.log ++ [{ code := c, arg := a }], outcome := o, busy := false, done := true }

/-- The commands each mode allows (60_exceptions.md R226). -/
def modeRuns : Mode → Instr → Bool
  | .fatal, _ => false
  | .uninit, .execute _ => false
  | .uninit, .tick => false
  | .uninit, _ => true
  | .running, .probe => false
  | .running, _ => true

/-- The frame the machine sends for CID characters `c` and payload `p` (41_codec.md R106). -/
def frameOf (s : State) (c p : List Byte) : List Byte := buildFrame s.cfg c (chars2 s.ver) (chars2 s.adr) p

/-- The transport answers the next exchange with a send result r > 0 and the receive of a nonempty byte string (10_state.md R40); `sends` and `recvs` are its answers after that. -/
def AnswersReply (s : State) (sends : List Int) (recvs : List RecvAnswer) (reply : List Byte) : Prop :=
  ∃ r first rest, 0 < r ∧ s.transport.sendAnswers = r :: sends ∧ s.transport.recvAnswers = .bytes first rest :: recvs
    ∧ reply = (first :: rest).take 128

/-- The state after an exchange of the frame `f` that received `reply` (43_exchange_dispatch.md R150), with TXBUF and RXBUF as given. -/
def exchanged (tx rx : Memory) (f reply : List Byte) (sends : List Int) (recvs : List RecvAnswer) (s : State) : State :=
  { s with
    tx := tx
    txlen := BitVec.ofNat 8 f.length
    rx := rx
    rxlen := BitVec.ofNat 16 reply.length
    transport :=
      { sendAnswers := sends
        recvAnswers := recvs
        requests := s.transport.requests ++ [.flush, .send f, .recv 128] } }

/-- The state after an accepted reply whose return code is 0 (41_codec.md R107): RC and RESULT. -/
def accepted (reply : List Byte) (s : State) : State :=
  { s with rc := 0, result := BitVec.ofNat 64 reply.length }

/-- The state after a published batch (44_pollfsm.md R180): PHASE, DATAFLAG, the events of the batch and MARK_FRESH, the log records, NONHEX. -/
def published (nx : Phase) (df : Nat) (events : List StoreEvent) (records : List LogRecord) (nonhex : Bool) (s : State) : State :=
  { s with
    phase := nx
    dataflag := BitVec.ofNat 8 df
    store := applyEvents (events ++ [.markFresh]) s.store
    log := s.log ++ records
    nonhex := s.nonhex || nonhex }

/-- The events that commit a status set (44_pollfsm.md R194, R196). -/
def statusEvents (f : StatusSet) : List StoreEvent :=
  [.statusInit] ++ (if f.onLine then [.statusSet .onLine] else []) ++ (if f.onBattery then [.statusSet .onBattery] else [])
    ++ (if f.bypass then [.statusSet .bypass] else []) ++ [.statusCommit]

/-- `o` is an outcome that the acceptance of a received reply can give (41_codec.md R118, with R107, R112 and R115), for a minimum length `m` of at least 13: the length, the return code where it is checked (a character that is not a hex digit makes it any 64-bit value), then, with VERIFY_RX, the LENGTH field, its bound, the bytes received and the payload checksum. -/
def AcceptOutcome (verify : Bool) (m : Nat) (checkRc : Bool) (reply : List Byte) (o : OutcomeCode) : Prop :=
  if reply.length < m then o = .shortRead
  else
    (checkRc = true ∧ o = .rejected ∧ ∃ rc, HexValue (charsAt reply 7 2) rc ∧ rc ≠ 0)
    ∨ ((checkRc = true → HexValue (charsAt reply 7 2) 0)
      ∧ if verify = false then o = .ok
        else match parseHex (charsAt reply 9 4) with
          | none => o = .badLchk
          | some w =>
            if (w / 4096 + w % 16 + w / 16 % 16 + w / 256 % 16) % 16 ≠ 0 ∨ 110 < w % 4096 then o = .badLchk
            else if reply.length < 17 + w % 4096 then o = .shortRead
            else match parseHex (charsAt reply (13 + w % 4096) 4) with
              | none => o = .badChk
              | some v => if (byteSum (charsAt reply 1 (12 + w % 4096)) + v) % 65536 = 0 then o = .ok else o = .badChk)

/-- What the last attempt left in RXLEN and RXBUF gives it the outcome `o` (43_exchange_dispatch.md R150, R162, 41_codec.md R118): a failed exchange IO_ERROR, an unanswered one TIMEOUT, both with no definite byte in RXBUF (70_reset_and_hazards.md R264, log 20), a reply what its acceptance gives. -/
def LastAttempt (m : Nat) (checkRc : Bool) (t : State) (o : OutcomeCode) : Prop :=
  (t.rxlen = -1 ∧ HoldsOnly t.rx [] ∧ o = .ioError) ∨ (t.rxlen = 0 ∧ HoldsOnly t.rx [] ∧ o = .timeout)
  ∨ ∃ reply : List Byte, 1 ≤ reply.length ∧ reply.length ≤ 128 ∧ HoldsOnly t.rx reply ∧ t.rxlen = BitVec.ofNat 16 reply.length
    ∧ AcceptOutcome t.cfg.verifyRx m checkRc reply o

/-- One exchange of the frame `f` from `s` to `u`, told by the transport (43_exchange_dispatch.md R150): the requests it makes, and, where the answers it gets are listed, what they leave in RXLEN and RXBUF. -/
def ExchangeOf (f : List Byte) (s u : State) : Prop :=
  (u.transport.requests = s.transport.requests ++ [.flush, .send f]
    ∨ u.transport.requests = s.transport.requests ++ [.flush, .send f, .recv 128])
  ∧ ∀ r sends, s.transport.sendAnswers = r :: sends →
    (r ≤ 0 → u.rxlen = (if r = 0 then 0 else -1)
      ∧ u.transport = { s.transport with sendAnswers := sends, requests := s.transport.requests ++ [.flush, .send f] })
    ∧ (0 < r → ∀ a recvs, s.transport.recvAnswers = a :: recvs →
      u.transport =
        { sendAnswers := sends, recvAnswers := recvs, requests := s.transport.requests ++ [.flush, .send f, .recv 128] }
      ∧ (RecvAnswer.result a 128 ≤ 0 → u.rxlen = (if RecvAnswer.result a 128 = 0 then 0 else -1))
      ∧ (0 < RecvAnswer.result a 128 →
          HoldsOnly u.rx (RecvAnswer.data a 128) ∧ u.rxlen = BitVec.ofNat 16 (RecvAnswer.data a 128).length))

/-- `os` are the outcomes, in order, of the attempts that lead from `s` to `t` (43_exchange_dispatch.md R162), numbered from `n` on in ATTEMPTS: each an exchange of the frame `f` followed by the acceptance of what it left. -/
def Attempts (m : Nat) (checkRc : Bool) (f : List Byte) (n : Nat) (s : State) (os : List OutcomeCode) (t : State) : Prop :=
  match os with
  | [] => t = s
  | o :: rest =>
    ∃ u, u.cfg = s.cfg ∧ u.attempts = BitVec.ofNat 8 n ∧ ExchangeOf f s u ∧ LastAttempt m checkRc u o
      ∧ Attempts m checkRc f (n + 1) u rest t

/-- `code` is the payload of the command with index `idx` (30_encoding.md R88). -/
def IsCommandCode (cfg : Params) (idx : Nat) (code : List Byte) : Prop :=
  (idx = 0 ∧ code = asciiChars4 cfg.cmdCode0) ∨ (idx = 1 ∧ code = asciiChars4 cfg.cmdCode1)
  ∨ (idx = 2 ∧ code = [0x32, 0x30, 0x30, 0x31]) ∨ (idx = 3 ∧ code = asciiChars4 cfg.cmdCode3)

/-- The numbers of the outcomes, as 60_exceptions.md R220 gives them. -/
def outcomeNumber : OutcomeCode → Nat
  | .ok => 0
  | .timeout => 1
  | .ioError => 2
  | .shortRead => 3
  | .rejected => 4
  | .unknownCommand => 5
  | .commandFailed => 6
  | .fatal => 7
  | .badLchk => 8
  | .badChk => 9
  | .badArgument => 10
  | .illegalCommand => 11
  | .wrongMode => 12

/-- The numbers of the phases, as 10_state.md R31 gives them. -/
def phaseNumber : Phase → Nat
  | .onoff => 0
  | .analog => 1
  | .warning => 2
  | .sysparam => 3

/-- The characters of a SYSPARAM field of a reply (44_pollfsm.md R198). -/
def sysFieldChars (reply : List Byte) : SysField → List Byte
  | .two k => charsAt reply (13 + k) 2
  | .four k => charsAt reply (13 + k) 4

/-- `v` is a value a SYSPARAM field of a reply can have (44_pollfsm.md R198; a two-character field is taken mod 256, log 17). -/
def SysFieldValue (reply : List Byte) (f : SysField) (v : Nat) : Prop :=
  match f with
  | .two _ => ByteField (sysFieldChars reply f) v
  | .four _ => HexValue (sysFieldChars reply f) v

/-- The block's turn comes next (log 7). -/
def BlocksTurn (s : State) : Prop := s.turns = [] ∨ ∃ rest, s.turns = .block :: rest

/-- The addresses of the host register map (20_memory.md R52). -/
def Mapped (a : Nat) : Prop :=
  a ≤ 0x03C ∨ (0x100 ≤ a ∧ a ≤ 0x17F) ∨ (0x200 ≤ a ∧ a ≤ 0x27F) ∨ (0x300 ≤ a ∧ a ≤ 0x36F) ∨ (0x400 ≤ a ∧ a ≤ 0x47F)

/-- The lowest bit that a defined opcode's format marks 0 (30_encoding.md R72, R73); bits from it to 31 are marked 0. -/
def firstZeroBit (op : Nat) : Nat :=
  if op = 0x02 then 20 else if op = 0x03 then 25 else if op = 0x04 ∨ op = 0x0A then 16
  else if op = 0x07 then 24 else if op = 0x08 then 32 else 8

/-- The outcomes a command can finish with when the machine verifies received checksums or not (60_exceptions.md R222), WRONG_MODE apart. -/
def outcomesOf (verify : Bool) : Instr → List OutcomeCode
  | .build => [.ok, .badArgument]
  | .lchk _ => [.ok]
  | .pchk _ _ _ => [.ok, .badArgument]
  | .validate _ => [.ok, .timeout, .ioError, .shortRead, .rejected]
  | .chklen => [.ok, .timeout, .ioError, .shortRead, .badLchk]
  | .chksum => [.ok, .timeout, .ioError, .shortRead, .badLchk, .badChk]
  | .hex2val _ _ => [.ok, .badArgument]
  | .hex2str _ _ _ => [.ok, .badArgument]
  | .exchange => [.ok, .timeout, .ioError, .badArgument]
  | .execute _ => [.ok, .unknownCommand, .commandFailed]
  | .tick => [.ok, .timeout, .ioError, .shortRead, .rejected] ++ (if verify then [.badLchk, .badChk] else [])
  | .probe => [.ok, .fatal]

/-- How many frames a trace of transport requests sends. -/
def sendsIn (rs : List WireRequest) : Nat :=
  match rs with
  | [] => 0
  | .send _ :: rest => sendsIn rest + 1
  | .flush :: rest => sendsIn rest
  | .recv _ :: rest => sendsIn rest

end Sys2Proof.Machine

open Sys2Proof Sys2Proof.Machine Sys2Proof.Config

/-! ## Reset and the step -/

/-- 10_state.md R44: the reset values, for a reset of the block in any state and for the machine at power-on. -/
def Obligations.ResetLeavesTheResetValues : Prop :=
  (∀ s : State, (blockReset s).store = s.store ∧ (blockReset s).transport = s.transport ∧ (blockReset s).log = s.log
    ∧ (blockReset s).cfg = s.cfg) ∧ State.reset.cfg = Config.device ∧
  ∀ t : State, (t = State.reset ∨ ∃ s, t = blockReset s) →
    (readReg .cmd t).1 = 0 ∧ statusWord t = 0 ∧ t.busy = false ∧ t.done = false ∧ t.mode = .uninit
    ∧ t.overrun = false ∧ t.nonhex = false ∧ t.buserr = false ∧ t.outcome.code = 0 ∧ t.result = 0 ∧ t.rc = 0 ∧ t.rxlen = 0
    ∧ t.adr = asciiReg2 t.cfg.addrDefault ∧ t.ver = asciiReg2 t.cfg.protoVer ∧ t.phase.code = 3 ∧ t.cid = 0 ∧ t.pllen = 0 ∧ t.txlen = 0
    ∧ t.strlen = 0 ∧ t.dataflag = 0 ∧ t.attempts = 0 ∧ ∀ b i, Memory.read (t.buf b) i = none

/-- A step runs the decoded command (20_memory.md R60, 30_encoding.md R71): at the block's turn, step is the block's step on the state with that turn taken; while BUSY = 1 that is exec of the command the pending word decodes to. That the block's turn passes with nothing else changed while BUSY = 0, and the list of turns, are the model's choice (log 7). -/
def Obligations.StepRunsTheDecodedCommand : Prop :=
  ∀ s : State, (s.turns = [] ∨ ∃ rest, s.turns = .block :: rest) →
    step s = blockStep { s with turns := s.turns.tail }
    ∧ (∀ i, s.busy = true → decode s.pending = .ok i → step s = exec i { s with turns := s.turns.tail })
    ∧ (s.busy = false → step s = .next { s with turns := s.turns.tail })

/-- A step takes the host's or the platform's turn where that comes next (20_memory.md R56, R62, 70_reset_and_hazards.md R250). The list of turns is the model's choice (log 7). -/
def Obligations.StepTakesTheHostsTurn : Prop :=
  ∀ (s : State) (rest : List Turn),
    (∀ w a, s.turns = .hostRead w a :: rest → step s = .next (hostRead w a { s with turns := rest }))
    ∧ (∀ w a v, s.turns = .hostWrite w a v :: rest → step s = .next (hostWrite w a v { s with turns := rest }))
    ∧ (s.turns = .reset :: rest → step s = .next (blockReset { s with turns := rest }))

/-- The block never traps (60_exceptions.md R225): every step of every state answers a next state. -/
def Obligations.EveryStepAnswersANextState : Prop :=
  ∀ s : State, ∃ t, step s = .next t

/-! ## Encoding -/

/-- Words written out from 30_encoding.md R73 (95_test_vectors.md section 2) decode to the commands they stand for, and illegal ones to none. -/
def Obligations.WrittenOutWordsDecode : Prop :=
  decode 0x00000001 = .ok .build ∧ decode 0x000FFF02 = .ok (.lchk 0xFFF) ∧ decode 0x01220103 = .ok (.pchk .rx 1 34)
  ∧ decode 0x00000D04 = .ok (.validate 13) ∧ decode 0x00000005 = .ok .chklen ∧ decode 0x00000006 = .ok .chksum
  ∧ decode 0x00020D07 = .ok (.hex2val 13 2) ∧ decode 0x0B140F08 = .ok (.hex2str 15 20 11) ∧ decode 0x00000009 = .ok .exchange
  ∧ decode 0x0000FF0A = .ok (.execute 255) ∧ decode 0x0000000B = .ok .tick ∧ decode 0x0000000C = .ok .probe
  ∧ decode 0x0000000D = .illegalOpcode 0x0D ∧ decode 0x02000003 = .reservedBits 0x03

/-- Decoding the word of a well-formed instruction gives it back, with every operand at every value (30_encoding.md R70 to R73). -/
def Obligations.DecodeOfEncode : Prop :=
  ∀ i : Instr, i.wf = true → decode (encode i) = .ok i

/-- A word that decodes is the one word of its instruction, which is well-formed (30_encoding.md R70 to R74): each command has one encoding. -/
def Obligations.EncodeOfDecode : Prop :=
  ∀ (w : Word) (i : Instr), decode w = .ok i → i.wf = true ∧ encode i = w

/-- 30_encoding.md R74: opcodes 0x00 and 0x0D to 0xFF, and any word of a defined opcode with a 1 in a bit its format marks 0, finish ILLEGAL_COMMAND, whatever the mode, with no other effect but the log record; every other word decodes. -/
def Obligations.IllegalWordsFinishIllegalCommand : Prop :=
  ∀ s : State, s.busy = true →
    ((s.pending.toNat % 256 = 0 ∨ 0x0D ≤ s.pending.toNat % 256
        ∨ ∃ b, firstZeroBit (s.pending.toNat % 256) ≤ b ∧ b < 32 ∧ s.pending.getLsbD b = true) →
      blockStep s = .next (endedLog .illegalCommand .illegalCommand s.pending.toNat s))
    ∧ (1 ≤ s.pending.toNat % 256 → s.pending.toNat % 256 ≤ 0x0C →
        (∀ b, firstZeroBit (s.pending.toNat % 256) ≤ b → b < 32 → s.pending.getLsbD b = false) →
      ∃ i, decode s.pending = .ok i ∧ blockStep s = exec i s)

/-! ## Modes and outcomes -/

/-- A command its mode does not allow finishes WRONG_MODE with no other effect but the log record (60_exceptions.md R226, R221). -/
def Obligations.DisallowedCommandsFinishWrongMode : Prop :=
  ∀ (i : Instr) (s : State), modeRuns s.mode i = false →
    exec i s = .next (endedLog .wrongMode .wrongMode s.pending.toNat s)

/-- 43_exchange_dispatch.md R171: once MODE = FATAL, every command finishes WRONG_MODE with no other effect, and no turn but a reset leaves FATAL. -/
def Obligations.FatalIsForGood : Prop :=
  ∀ s : State, s.mode = .fatal →
    (∀ i, exec i s = .next (endedLog .wrongMode .wrongMode s.pending.toNat s))
    ∧ (∀ (turn : Turn) (t : State), takeTurn turn s = .next t → t.mode = .fatal ∨ (turn = .reset ∧ t.mode = .uninit))

/-- MODE changes only by the PROBE command, at the block's turn with that command pending, and by reset (10_state.md R24, 60_exceptions.md R226): UNINIT to RUNNING with OK, UNINIT to FATAL with FATAL. -/
def Obligations.ModeChangesOnlyByProbeAndReset : Prop :=
  (∀ (i : Instr) (s t : State), exec i s = .next t → t.mode ≠ s.mode →
    i = .probe ∧ s.mode = .uninit ∧ ((t.mode = .running ∧ t.outcome = .ok) ∨ (t.mode = .fatal ∧ t.outcome = .fatal)))
  ∧ ∀ s t : State, step s = .next t → t.mode ≠ s.mode →
    (∃ rest, s.turns = .reset :: rest ∧ t.mode = .uninit)
    ∨ (BlocksTurn s ∧ s.busy = true ∧ decode s.pending = .ok .probe ∧ s.mode = .uninit
      ∧ ((t.mode = .running ∧ t.outcome = .ok) ∨ (t.mode = .fatal ∧ t.outcome = .fatal)))

/-- PHASE is changed only by TICK, by EXECUTE and by PROBE, the last two to SYSPARAM and all three only with outcome OK, at the block's turn with that command pending, and by reset (10_state.md R31, 44_pollfsm.md R191). -/
def Obligations.PhaseChangesOnlyOnSuccess : Prop :=
  (∀ (i : Instr) (s t : State), exec i s = .next t → t.phase ≠ s.phase →
    t.outcome = .ok ∧ (i = .tick ∨ (i = .probe ∧ t.phase = .sysparam) ∨ ∃ idx, i = .execute idx ∧ t.phase = .sysparam))
  ∧ ∀ s t : State, step s = .next t → t.phase ≠ s.phase →
    (∃ rest, s.turns = .reset :: rest ∧ t.phase = .sysparam)
    ∨ (BlocksTurn s ∧ s.busy = true ∧ t.outcome = .ok ∧ ∃ i, decode s.pending = .ok i
      ∧ (i = .tick ∨ (i = .probe ∧ t.phase = .sysparam) ∨ ∃ idx, i = .execute idx ∧ t.phase = .sysparam))

/-- Every command ends in one finish (60_exceptions.md R221): BUSY falls, DONE rises, and BAD_ARGUMENT and WRONG_MODE append the command word to the log and nothing else. -/
def Obligations.EveryCommandFinishes : Prop :=
  ∀ (i : Instr) (s : State), ∃ t, exec i s = .next t ∧ t.busy = false ∧ t.done = true
    ∧ (t.outcome = .badArgument → t.log = s.log ++ [{ code := .badArgument, arg := s.pending.toNat }])
    ∧ (t.outcome = .wrongMode → t.log = s.log ++ [{ code := .wrongMode, arg := s.pending.toNat }])

/-- 60_exceptions.md R222: the outcomes each command can finish with. -/
def Obligations.OutcomesOfEachCommand : Prop :=
  (∀ (i : Instr) (s t : State), exec i s = .next t →
    (modeRuns s.mode i = true → t.outcome ∈ outcomesOf s.cfg.verifyRx i)
    ∧ (modeRuns s.mode i = false → t.outcome = .wrongMode))
  ∧ ∀ s t : State, s.busy = true → (∀ i, decode s.pending ≠ .ok i) → blockStep s = .next t → t.outcome = .illegalCommand

/-- The log only grows, and every outcome but OK comes with at least one record of the same command (60_exceptions.md R232). -/
def Obligations.EveryFailureIsLogged : Prop :=
  ∀ (i : Instr) (s t : State), exec i s = .next t →
    ∃ records, t.log = s.log ++ records ∧ (t.outcome ≠ .ok → records ≠ [])

/-- What no command changes: ADDR (10_state.md R29), VER (R30), CID (R32), PLLEN (R33), PLBUF (R38), OVERRUN and BUSERR (R24) and the parameters; and a sticky NONHEX stays set (R24). RXLEN, the fourth argument register of R21, is not among them: EXCHANGE, EXECUTE, TICK and PROBE write it (43_exchange_dispatch.md R150). That the pending word, which counts only while BUSY, keeps its value is the model's choice (log 5); the turns to come (log 7) and the data of the last host read (log 12) are the model's own fields. -/
def Obligations.NoCommandChangesAddrVerCidPllenOrPlbuf : Prop :=
  ∀ (i : Instr) (s t : State), exec i s = .next t →
    t.adr = s.adr ∧ t.ver = s.ver ∧ t.cid = s.cid ∧ t.pllen = s.pllen ∧ t.pl = s.pl ∧ t.overrun = s.overrun
    ∧ t.buserr = s.buserr ∧ t.pending = s.pending ∧ t.cfg = s.cfg ∧ t.turns = s.turns ∧ t.hostData = s.hostData
    ∧ (s.nonhex = true → t.nonhex = true)

/-- Only EXCHANGE, EXECUTE, TICK and PROBE make transport requests, and only TICK and PROBE emit store events (43_exchange_dispatch.md R151, R160, 44_pollfsm.md R180, R201). -/
def Obligations.OnlyPortCommandsUseThePorts : Prop :=
  ∀ (i : Instr) (s t : State), exec i s = .next t →
    (i ≠ .exchange → (∀ k, i ≠ .execute k) → i ≠ .tick → i ≠ .probe → t.transport = s.transport)
    ∧ (i ≠ .tick → i ≠ .probe → t.store = s.store)

/-! ## The frame codec -/

/-- 42_hexdecode.md R133: hexval recovers every number rendered with 1 to 15 digits, and changes nothing. And R130: its hex digits are exactly '0' to '9', 'A' to 'F' and 'a' to 'f' (00_scope.md R9), with the values 0 to 9 and twice 10 to 15; the first digit is the most significant; no characters give 0; more than 15 give 0 and change nothing; a string of hex digits gives its value, below 16^k, and changes nothing; a string with another character gives a 64-bit value and sets NONHEX. -/
def Obligations.HexvalRecoversRenderedNumbers : Prop :=
  (∀ (k v : Nat) (s : State), 1 ≤ k → k ≤ 15 → v < 16 ^ k → hexval (renderHex k v) s = (v, s))
  ∧ (∀ c : Byte, parseHex [c] =
      if 0x30 ≤ c.toNat ∧ c.toNat ≤ 0x39 then some (c.toNat - 0x30)
      else if 0x41 ≤ c.toNat ∧ c.toNat ≤ 0x46 then some (c.toNat - 0x41 + 10)
      else if 0x61 ≤ c.toNat ∧ c.toNat ≤ 0x66 then some (c.toNat - 0x61 + 10)
      else none)
  ∧ parseHex [] = some 0
  ∧ (∀ (bs : List Byte) (c : Byte), parseHex (bs ++ [c]) =
      match parseHex bs, parseHex [c] with
      | some v, some d => some (16 * v + d)
      | _, _ => none)
  ∧ ∀ (bs : List Byte) (s : State),
    (15 < bs.length → hexval bs s = (0, s))
    ∧ (bs.length ≤ 15 → ∀ v, parseHex bs = some v → v < 16 ^ bs.length ∧ hexval bs s = (v, s))
    ∧ (bs.length ≤ 15 → parseHex bs = none → ∃ x d, x < 2 ^ 64 ∧ hexval bs s = (x, { s with nonhex := true, draws := d }))

/-- The layout of a frame (30_encoding.md R81, 41_codec.md R105, R106): 18 + L bytes, the fields at their offsets, the LENGTH field the rendering of c · 4096 + L with the nibbles of c and L summing to 0 mod 16, the CHKSUM field the rendering of a number that with the bytes 1..12 + L sums to 0 mod 65536. -/
def Obligations.FrameLayout : Prop :=
  ∀ (cfg : Params) (c v a p : List Byte), c.length = 4 → v.length = 2 → a.length = 2 → p.length ≤ 110 →
    (buildFrame cfg c v a p).length = 18 + p.length
    ∧ (buildFrame cfg c v a p)[0]? = some cfg.soiChar
    ∧ charsAt (buildFrame cfg c v a p) 1 2 = v
    ∧ charsAt (buildFrame cfg c v a p) 3 2 = a
    ∧ charsAt (buildFrame cfg c v a p) 5 4 = c
    ∧ (∃ k, k < 16 ∧ (k + p.length % 16 + p.length / 16 % 16 + p.length / 256 % 16) % 16 = 0
        ∧ charsAt (buildFrame cfg c v a p) 9 4 = renderHex 4 (k * 4096 + p.length))
    ∧ charsAt (buildFrame cfg c v a p) 13 p.length = p
    ∧ (∃ k, k < 65536 ∧ (byteSum (charsAt (buildFrame cfg c v a p) 1 (12 + p.length)) + k) % 65536 = 0
        ∧ charsAt (buildFrame cfg c v a p) (13 + p.length) 4 = renderHex 4 k)
    ∧ (buildFrame cfg c v a p)[17 + p.length]? = some cfg.eoiChar

/-- BUILD (41_codec.md R100): in UNINIT and RUNNING, with PLLEN = L ≤ 110, the frame of the L payload characters goes to TX[0..17 + L] and nowhere else, TXLEN is 18 + L, the outcome OK; with L > 110 it finishes BAD_ARGUMENT and writes nothing else. -/
def Obligations.BuildStoresTheFrame : Prop :=
  ∀ s : State, s.mode ≠ .fatal →
    (s.pllen.toNat ≤ 110 → ∃ (p : List Byte) (tx : Memory) (d : Nat), p.length = s.pllen.toNat ∧ Reads s.pl 0 p
      ∧ Stored s.tx tx (frameOf s (chars4 s.cid) p)
      ∧ exec .build s = .next (ended .ok { s with tx := tx, txlen := BitVec.ofNat 8 (18 + s.pllen.toNat), draws := d }))
    ∧ (110 < s.pllen.toNat → exec .build s = .next (endedLog .badArgument .badArgument s.pending.toNat s))

/-- LCHK (41_codec.md R101, R102): in UNINIT and RUNNING, RESULT is c · 4096 + L12 for the c below 16 that makes the nibble sum 0 mod 16, and nothing else changes. -/
def Obligations.LchkComputesTheLengthWord : Prop :=
  ∀ (l12 : Nat) (s : State), l12 < 4096 → s.mode ≠ .fatal →
    ∃ c, c < 16 ∧ (c + l12 % 16 + l12 / 16 % 16 + l12 / 256 % 16) % 16 = 0
      ∧ exec (.lchk l12) s = .next (ended .ok { s with result := BitVec.ofNat 64 (c * 4096 + l12) })

/-- PCHK (41_codec.md R103, R104): in UNINIT and RUNNING, for a range inside the buffer, RESULT is the 16-bit number that with the bytes of the range sums to 0 mod 65536, and nothing else changes; for a range past byte 127 it finishes BAD_ARGUMENT. -/
def Obligations.PchkComputesThePayloadChecksum : Prop :=
  ∀ (sel : BufSel) (off len : Nat) (s : State), s.mode ≠ .fatal →
    (off + len ≤ 128 → ∃ (bs : List Byte) (k d : Nat), bs.length = len
      ∧ Reads (match sel with | .tx => s.tx | .rx => s.rx) off bs
      ∧ k < 65536 ∧ (byteSum bs + k) % 65536 = 0
      ∧ exec (.pchk sel off len) s = .next (ended .ok { s with result := BitVec.ofNat 64 k, draws := d }))
    ∧ (128 < off + len → exec (.pchk sel off len) s = .next (endedLog .badArgument .badArgument s.pending.toNat s))

/-! ## The validator -/

/-- VALIDATE (41_codec.md R107): the transport result, the length, then the return code at RX[7..8]. RC, RESULT, NONHEX, OUTCOME and the log are all it writes. -/
def Obligations.ValidateChecksInOrder : Prop :=
  ∀ (m : Nat) (s : State), s.mode ≠ .fatal →
    (s.rxlen.toInt < 0 → exec (.validate m) s = .next (endedLog .ioError .rxIoerr s.rxlen.toInt s))
    ∧ (s.rxlen.toInt = 0 → exec (.validate m) s = .next (endedLog .timeout .rxTimeout 0 s))
    ∧ (0 < s.rxlen.toInt → s.rxlen.toInt < (max m 9 : Nat) →
        exec (.validate m) s = .next (endedLog .shortRead .shortRead s.rxlen.toInt s))
    ∧ ((max m 9 : Nat) ≤ s.rxlen.toInt →
        ∃ (bs : List Byte) (rc d : Nat), bs.length = 2 ∧ Reads s.rx 7 bs ∧ HexValue bs rc
          ∧ exec (.validate m) s = .next
            (if rc = 0 then
              ended .ok { s with
                rc := 0, result := BitVec.ofInt 64 s.rxlen.toInt, nonhex := s.nonhex || hasNonhex bs, draws := d }
            else
              endedLog .rejected .rejected rc { s with
                rc := BitVec.ofNat 8 rc, result := BitVec.ofNat 64 (if rc ≤ 6 then rc else 7)
                nonhex := s.nonhex || hasNonhex bs, draws := d }))

/-- CHKLEN (41_codec.md R112): the transport result, the length, then the LENGTH field at RX[9..12]. RESULT, OUTCOME and the log are all it writes. -/
def Obligations.ChklenChecksTheLengthField : Prop :=
  ∀ s : State, s.mode ≠ .fatal →
    (s.rxlen.toInt < 0 → exec .chklen s = .next (endedLog .ioError .rxIoerr s.rxlen.toInt s))
    ∧ (s.rxlen.toInt = 0 → exec .chklen s = .next (endedLog .timeout .rxTimeout 0 s))
    ∧ (0 < s.rxlen.toInt → s.rxlen.toInt < 13 → exec .chklen s = .next (endedLog .shortRead .shortRead s.rxlen.toInt s))
    ∧ (13 ≤ s.rxlen.toInt →
        ∃ (bs : List Byte) (d : Nat), bs.length = 4 ∧ Reads s.rx 9 bs
          ∧ exec .chklen s = .next
            (match parseHex bs with
              | none => endedLog .badLchk .badLchk 0 { s with draws := d }
              | some w =>
                if (w / 4096 + w % 16 + w / 16 % 16 + w / 256 % 16) % 16 = 0 then
                  ended .ok { s with result := BitVec.ofNat 64 (w % 4096), draws := d }
                else endedLog .badLchk .badLchk w { s with result := BitVec.ofNat 64 (w % 4096), draws := d }))

/-- CHKSUM (41_codec.md R115): it ends as CHKLEN does where CHKLEN does not end OK; else, L being the length that the LENGTH field declares: L above 110, a checksum field that was not received, a checksum field that is not hex, a sum that is not 0 mod 65536, or OK. RESULT, OUTCOME and the log are all it writes. -/
def Obligations.ChksumChecksThePayloadChecksum : Prop :=
  (∀ s t : State, s.mode ≠ .fatal → exec .chklen s = .next t → t.outcome ≠ .ok → exec .chksum s = .next t)
  ∧ ∀ s u : State, s.mode ≠ .fatal → exec .chklen s = .next u → u.outcome = .ok →
    ∃ l : Nat, l < 4096 ∧ u.result = BitVec.ofNat 64 l
    ∧ (110 < l → exec .chksum s = .next (endedLog .badLchk .badLchk l { s with result := BitVec.ofNat 64 l, draws := u.draws }))
    ∧ (l ≤ 110 → s.rxlen.toInt < 17 + l → exec .chksum s = .next
        (endedLog .shortRead .shortRead s.rxlen.toInt { s with result := BitVec.ofNat 64 l, draws := u.draws }))
    ∧ (l ≤ 110 → 17 + l ≤ s.rxlen.toInt →
        ∃ (cov chk : List Byte) (d : Nat), cov.length = 12 + l ∧ Reads s.rx 1 cov ∧ chk.length = 4 ∧ Reads s.rx (13 + l) chk
          ∧ exec .chksum s = .next
            (match parseHex chk with
              | none => endedLog .badChk .badChk 0 { s with result := BitVec.ofNat 64 l, draws := d }
              | some v =>
                if (byteSum cov + v) % 65536 = 0 then ended .ok { s with result := BitVec.ofNat 64 v, draws := d }
                else endedLog .badChk .badChk v { s with result := BitVec.ofNat 64 v, draws := d }))

/-- The codec's two checksums are sound together (41_codec.md R101, R103, R106, R112, R115): a frame that BUILD can build, received whole, passes CHKLEN with its length and CHKSUM with its checksum. -/
def Obligations.BuiltFramesPassBothChecks : Prop :=
  ∀ (s : State) (cfg : Params) (c v a p : List Byte), s.mode ≠ .fatal →
    c.length = 4 → v.length = 2 → a.length = 2 → p.length ≤ 110 →
    Holds s.rx 0 (buildFrame cfg c v a p) → (17 + p.length : Nat) ≤ s.rxlen.toInt →
    exec .chklen s = .next (ended .ok { s with result := BitVec.ofNat 64 p.length })
    ∧ exec .chksum s = .next (ended .ok { s with result := BitVec.ofNat 64 (pchk (frameBody c v a p)) })

/-! ## The hex field decoder -/

/-- HEX2VAL (42_hexdecode.md R130, R131): more than 15 characters give 0; a field past byte 127 finishes BAD_ARGUMENT; else RESULT is the field's value, any 64-bit value where a character is not a hex digit, and NONHEX is set exactly then. -/
def Obligations.Hex2valDecodesTheField : Prop :=
  ∀ (off len : Nat) (s : State), s.mode ≠ .fatal →
    (15 < len → exec (.hex2val off len) s = .next (ended .ok { s with result := 0 }))
    ∧ (len ≤ 15 → 128 < off + len →
        exec (.hex2val off len) s = .next (endedLog .badArgument .badArgument s.pending.toNat s))
    ∧ (len ≤ 15 → off + len ≤ 128 →
        ∃ (bs : List Byte) (v d : Nat), bs.length = len ∧ Reads s.rx off bs ∧ HexValue bs v
          ∧ exec (.hex2val off len) s = .next
            (ended .ok { s with result := BitVec.ofNat 64 v, nonhex := s.nonhex || hasNonhex bs, draws := d }))

/-- HEX2STR (42_hexdecode.md R134, R135): with no room for the terminator, past STRBUF, or with a field past byte 127 it finishes BAD_ARGUMENT and writes nothing else; else the string and its terminator go to STR[0..j] and nowhere else; each byte is its pair's value where both are hex digits; a decoded space ends the string and is not written; else it ends at min(LEN div 2, CAP − 1); NONHEX is set exactly where a decoded pair is not hex. -/
def Obligations.Hex2strDecodesTheString : Prop :=
  ∀ (off len cap : Nat) (s : State), s.mode ≠ .fatal →
    ((cap = 0 ∨ 128 < cap ∨ 128 < off + len) →
      exec (.hex2str off len cap) s = .next (endedLog .badArgument .badArgument s.pending.toNat s))
    ∧ (1 ≤ cap → cap ≤ 128 → off + len ≤ 128 →
      ∃ (bs out : List Byte) (str : Memory) (x : Bool) (d : Nat), bs.length = len ∧ Reads s.rx off bs
      ∧ out.length ≤ min (len / 2) (cap - 1)
      ∧ (∀ j, j < out.length → out[j]? ≠ some 0x20 ∧
          ∀ v, parseHex (charsAt bs (2 * j) 2) = some v → out[j]? = some (BitVec.ofNat 8 v))
      ∧ (out.length < min (len / 2) (cap - 1) → ∀ v, parseHex (charsAt bs (2 * out.length) 2) = some v → v = 0x20)
      ∧ (x = true ↔ s.nonhex = true
          ∨ ∃ j, j ≤ out.length ∧ j < min (len / 2) (cap - 1) ∧ parseHex (charsAt bs (2 * j) 2) = none)
      ∧ Stored s.str str (out ++ [0x00])
      ∧ exec (.hex2str off len cap) s = .next
        (ended .ok { s with str := str, strlen := BitVec.ofNat 8 out.length, nonhex := x, draws := d }))

/-! ## The exchange, the dispatcher, the probe -/

/-- EXCHANGE with a reply (43_exchange_dispatch.md R150, R151): the frame goes to TXBUF and out, the reply is all RXBUF holds, RXLEN its length; the requests are flush, send, receive; the outcome is OK. -/
def Obligations.ExchangeReceivesTheReply : Prop :=
  ∀ (s : State) (sends : List Int) (recvs : List RecvAnswer) (reply : List Byte), s.mode ≠ .fatal → s.pllen.toNat ≤ 110 →
    AnswersReply s sends recvs reply →
    ∃ (p : List Byte) (tx rx : Memory) (d : Nat), p.length = s.pllen.toNat ∧ Reads s.pl 0 p
      ∧ Stored s.tx tx (frameOf s (chars4 s.cid) p) ∧ HoldsOnly rx reply
      ∧ exec .exchange s = .next
        (ended .ok (exchanged tx rx (frameOf s (chars4 s.cid) p) reply sends recvs { s with draws := d }))

/-- EXCHANGE without a reply (43_exchange_dispatch.md R150, R151): a send or receive that answers 0 ends TIMEOUT with RXLEN 0, one that answers below 0 ends IO_ERROR with RXLEN −1, each with its log record; nothing is received after a failed send. No byte of RXBUF keeps a definite value (70_reset_and_hazards.md R264 as log 20 reads it). With PLLEN > 110 it finishes BAD_ARGUMENT with no transport request. -/
def Obligations.ExchangeReportsFailures : Prop :=
  (∀ s : State, s.mode ≠ .fatal → 110 < s.pllen.toNat →
    exec .exchange s = .next (endedLog .badArgument .badArgument s.pending.toNat s))
  ∧ ∀ (s : State) (r : Int) (sends : List Int), s.mode ≠ .fatal → s.pllen.toNat ≤ 110 →
    s.transport.sendAnswers = r :: sends →
    (r ≤ 0 → ∃ (p : List Byte) (tx : Memory) (d : Nat), p.length = s.pllen.toNat ∧ Reads s.pl 0 p
      ∧ Stored s.tx tx (frameOf s (chars4 s.cid) p)
      ∧ exec .exchange s = .next
        (endedLog (if r = 0 then .timeout else .ioError) (if r = 0 then .txTimeout else .txIoerr) r { s with
          tx := tx, txlen := BitVec.ofNat 8 (18 + s.pllen.toNat), rxlen := if r = 0 then 0 else -1, rx := []
          transport := { s.transport with
            sendAnswers := sends
            requests := s.transport.requests ++ [.flush, .send (frameOf s (chars4 s.cid) p)] }
          draws := d }))
    ∧ (0 < r → ∀ (a : RecvAnswer) (recvs : List RecvAnswer), s.transport.recvAnswers = a :: recvs →
      RecvAnswer.result a 128 ≤ 0 → ∃ (p : List Byte) (tx : Memory) (d : Nat), p.length = s.pllen.toNat ∧ Reads s.pl 0 p
      ∧ Stored s.tx tx (frameOf s (chars4 s.cid) p)
      ∧ exec .exchange s = .next
        (endedLog (if RecvAnswer.result a 128 = 0 then .timeout else .ioError)
          (if RecvAnswer.result a 128 = 0 then .rxTimeout else .rxIoerr) (RecvAnswer.result a 128) { s with
          tx := tx, txlen := BitVec.ofNat 8 (18 + s.pllen.toNat), rxlen := if RecvAnswer.result a 128 = 0 then 0 else -1, rx := []
          transport :=
            { sendAnswers := sends
              recvAnswers := recvs
              requests := s.transport.requests ++ [.flush, .send (frameOf s (chars4 s.cid) p), .recv 128] }
          draws := d }))

/-- 43_exchange_dispatch.md R152: an exchange flushes, sends exactly one frame and makes at most one receive, whatever the transport answers. -/
def Obligations.OneFrameAndAtMostOneReceivePerExchange : Prop :=
  ∀ (c p : List Byte) (s : State),
    (exchange c p s).transport.requests = s.transport.requests ++ [.flush, .send (frameOf s c p)]
    ∨ (exchange c p s).transport.requests = s.transport.requests ++ [.flush, .send (frameOf s c p), .recv 128]

/-- EXECUTE with a first reply that is accepted (43_exchange_dispatch.md R160, 30_encoding.md R88): in RUNNING, with received checksums not verified, it sends the command's code under CID(REMOTE), takes the reply of at least 13 bytes whose return code is 0, and ends OK with ATTEMPTS = 1, PHASE = SYSPARAM and RESULT the reply's byte count. -/
def Obligations.ExecuteSucceedsAtTheFirstAttempt : Prop :=
  ∀ (idx : Nat) (code : List Byte) (s : State) (sends : List Int) (recvs : List RecvAnswer) (reply : List Byte),
    s.mode = .running → s.cfg.verifyRx = false →
    ((idx = 0 ∧ code = asciiChars4 s.cfg.cmdCode0) ∨ (idx = 1 ∧ code = asciiChars4 s.cfg.cmdCode1)
      ∨ (idx = 2 ∧ code = [0x32, 0x30, 0x30, 0x31]) ∨ (idx = 3 ∧ code = asciiChars4 s.cfg.cmdCode3)) →
    AnswersReply s sends recvs reply → 13 ≤ reply.length → parseHex (charsAt reply 7 2) = some 0 →
    ∃ tx rx : Memory, Stored s.tx tx (frameOf s (asciiChars4 s.cfg.cidRemote) code) ∧ HoldsOnly rx reply
      ∧ exec (.execute idx) s = .next (ended .ok { accepted reply
          (exchanged tx rx (frameOf s (asciiChars4 s.cfg.cidRemote) code) reply sends recvs s) with
        attempts := 1, phase := .sysparam })

/-- EXECUTE, whatever the transport answers (43_exchange_dispatch.md R160, R162). An index of 4 or more makes no exchange: it logs and ends UNKNOWN_COMMAND, ATTEMPTS unchanged. Of a known command: ATTEMPTS is the number of frames sent, 1 to 3, each the command's, and no attempt but the last is accepted, so the first accepted one ends the loop. It ends OK only for a last reply that accept(13, true) takes (41_codec.md R118: at least 13 bytes, return code 0, and right checksums with VERIFY_RX), which RXBUF holds; then RC is 0, RESULT the byte count and PHASE SYSPARAM. Else there were three attempts and none was accepted, PHASE is unchanged, RESULT is the outcome code (60_exceptions.md R220, R223) of the third and the last record is CMD_FAILED. A failed exchange leaves no definite byte in RXBUF (70_reset_and_hazards.md R264 as log 20 reads it). -/
def Obligations.ExecuteRetriesAtMostThreeTimes : Prop :=
  ∀ (idx : Nat) (s : State), s.mode = .running →
    (4 ≤ idx → exec (.execute idx) s = .next (endedLog .unknownCommand .unknownCmd idx s))
    ∧ (idx < 4 → ∃ (t u : State) (code : List Byte) (os : List OutcomeCode) (rs : List WireRequest),
      exec (.execute idx) s = .next t ∧ IsCommandCode s.cfg idx code
      ∧ Attempts 13 true (frameOf s (asciiChars4 s.cfg.cidRemote) code) 1 s os u ∧ (∀ o ∈ os.dropLast, o ≠ .ok)
      ∧ t.transport = u.transport ∧ t.rxlen = u.rxlen ∧ t.rx = u.rx ∧ t.attempts = u.attempts
      ∧ t.transport.requests = s.transport.requests ++ rs ∧ os.length = sendsIn rs
      ∧ t.attempts.toNat = sendsIn rs ∧ 1 ≤ sendsIn rs ∧ sendsIn rs ≤ 3
      ∧ ((t.outcome = .ok ∧ t.phase = .sysparam ∧ os.getLast? = some .ok ∧ LastAttempt 13 true t .ok ∧ t.rc = 0
          ∧ t.result = t.rxlen.signExtend 64)
        ∨ (t.outcome = .commandFailed ∧ t.phase = s.phase ∧ sendsIn rs = 3 ∧ (∀ o ∈ os, o ≠ .ok)
          ∧ (∃ records, t.log = s.log ++ records ++ [{ code := .cmdFailed, arg := idx }])
          ∧ ∃ o ∈ [OutcomeCode.timeout, .ioError, .shortRead, .rejected, .badLchk, .badChk],
              os.getLast? = some o ∧ LastAttempt 13 true t o ∧ t.result = BitVec.ofNat 64 (outcomeNumber o)))
      ∧ t.store = s.store ∧ t.str = s.str ∧ t.strlen = s.strlen ∧ t.dataflag = s.dataflag ∧ t.mode = s.mode)

/-- PROBE with a first reply that is accepted (43_exchange_dispatch.md R170): in UNINIT, with received checksums not verified, a reply of at least 35 bytes whose return code is 0 gives the name decoded from the 20 characters at NAME_OFF to STRBUF and to the store, MODE = RUNNING, PHASE = SYSPARAM, ATTEMPTS = 1. -/
def Obligations.ProbeIdentifiesTheDevice : Prop :=
  ∀ (s : State) (sends : List Int) (recvs : List RecvAnswer) (reply : List Byte),
    s.mode = .uninit → s.cfg.verifyRx = false → s.cfg.probeChecksRc = true →
    AnswersReply s sends recvs reply → 35 ≤ reply.length → parseHex (charsAt reply 7 2) = some 0 →
    ∃ (tx rx str : Memory) (name : List Byte) (x : Bool) (d : Nat),
      Stored s.tx tx (frameOf s (asciiChars4 s.cfg.cidVendor) (payloadChars s.cfg.reqVendor)) ∧ HoldsOnly rx reply
      ∧ name.length ≤ 10 ∧ Stored s.str str (name ++ [0x00])
      ∧ (∀ j, j < name.length → name[j]? ≠ some 0x20 ∧
          ∀ v, parseHex (charsAt reply (s.cfg.nameOff + 2 * j) 2) = some v → name[j]? = some (BitVec.ofNat 8 v))
      ∧ (name.length < 10 → ∀ v, parseHex (charsAt reply (s.cfg.nameOff + 2 * name.length) 2) = some v → v = 0x20)
      ∧ (x = true ↔ s.nonhex = true
          ∨ ∃ j, j ≤ name.length ∧ j < 10 ∧ parseHex (charsAt reply (s.cfg.nameOff + 2 * j) 2) = none)
      ∧ exec .probe s = .next (ended .ok { accepted reply
          (exchanged tx rx (frameOf s (asciiChars4 s.cfg.cidVendor) (payloadChars s.cfg.reqVendor)) reply sends recvs s) with
        attempts := 1, mode := .running, phase := .sysparam, str := str, strlen := BitVec.ofNat 8 name.length
        store := applyEvents [.fact .vendorName (.text name)] s.store, nonhex := x, draws := d })

/-- PROBE in UNINIT, whatever the transport answers (43_exchange_dispatch.md R170, R162): ATTEMPTS is the number of frames sent, 1 to 3, each the vendor request, and no attempt but the last is accepted, so the first accepted one ends the loop. It ends OK in RUNNING with PHASE = SYSPARAM only for a last reply that accept(35, PROBE_CHECKS_RC) takes (41_codec.md R118: at least 35 bytes, return code 0 where it is checked, and right checksums with VERIFY_RX), which RXBUF holds; then RESULT is the byte count, RC is 0 where it is checked, and the name stands in STRBUF and in the store. Else it ends FATAL in FATAL after three attempts, none accepted, with PROBE_FATAL logged last, no store event and STRBUF unchanged. A failed exchange leaves no definite byte in RXBUF (70_reset_and_hazards.md R264 as log 20 reads it). -/
def Obligations.ProbeEndsRunningOrFatal : Prop :=
  ∀ s : State, s.mode = .uninit →
    ∃ (t u : State) (os : List OutcomeCode) (rs : List WireRequest), exec .probe s = .next t
      ∧ Attempts 35 s.cfg.probeChecksRc (frameOf s (asciiChars4 s.cfg.cidVendor) (payloadChars s.cfg.reqVendor)) 1 s os u
      ∧ (∀ o ∈ os.dropLast, o ≠ .ok)
      ∧ t.transport = u.transport ∧ t.rxlen = u.rxlen ∧ t.rx = u.rx ∧ t.attempts = u.attempts
      ∧ t.transport.requests = s.transport.requests ++ rs ∧ os.length = sendsIn rs
      ∧ t.attempts.toNat = sendsIn rs ∧ 1 ≤ sendsIn rs ∧ sendsIn rs ≤ 3
      ∧ ((t.outcome = .ok ∧ t.mode = .running ∧ t.phase = .sysparam ∧ os.getLast? = some .ok
          ∧ LastAttempt 35 s.cfg.probeChecksRc t .ok ∧ t.result = t.rxlen.signExtend 64 ∧ (s.cfg.probeChecksRc = true → t.rc = 0)
          ∧ ∃ name : List Byte, t.store = applyEvents [.fact .vendorName (.text name)] s.store
            ∧ Store.factOf t.store .vendorName = some (.text name)
            ∧ Stored s.str t.str (name ++ [0x00]) ∧ t.strlen = BitVec.ofNat 8 name.length)
        ∨ (t.outcome = .fatal ∧ t.mode = .fatal ∧ t.phase = s.phase ∧ sendsIn rs = 3 ∧ t.store = s.store ∧ t.str = s.str
          ∧ t.strlen = s.strlen ∧ (∀ o ∈ os, o ≠ .ok)
          ∧ (∃ o, o ≠ .ok ∧ os.getLast? = some o ∧ LastAttempt 35 s.cfg.probeChecksRc t o)
          ∧ ∃ records, t.log = s.log ++ records ++ [{ code := .probeFatal, arg := 0 }]))
      ∧ t.dataflag = s.dataflag

/-! ## The polling state machine -/

/-- 44_pollfsm.md R193: the data-flag override, for every data flag 0..255 and default. -/
def Obligations.DataFlagOverridesTheDefault : Prop :=
  ∀ (cfg : Params) (df : Nat) (d : Phase), df < 256 →
    flagOverride cfg df d =
      if df.testBit 0 = true ∧ df.testBit 4 = true then (if cfg.flagPriority = .warnFirst then .warning else .onoff)
      else if df.testBit 0 = true then .warning
      else if df.testBit 4 = true then .onoff
      else d

/-- 44_pollfsm.md R196: the ANALOG status correction. The store's committed status set (10_state.md R41) is then ON_BATTERY without ON_LINE where the input voltage is 0, ON_LINE without ON_BATTERY where it is not, BYPASS as before; without a correction it is as before; the committed alarms, the facts and the mark are as before either way. -/
def Obligations.CorrectionFollowsTheInputVoltage : Prop :=
  ∀ (vin : Nat) (nx : Phase) (s : State),
    ((correct vin nx s).2.store.status =
      if (vin = 0 ∧ s.store.status.onLine = true) ∨ (vin ≠ 0 ∧ s.store.status.onBattery = true) then
        { onLine := decide (vin ≠ 0), onBattery := decide (vin = 0), bypass := s.store.status.bypass }
      else s.store.status)
    ∧ (correct vin nx s).2.store.alarms = s.store.alarms ∧ (correct vin nx s).2.store.facts = s.store.facts
    ∧ (correct vin nx s).2.store.mark = s.store.mark
    ∧ correct vin nx s =
      if (vin = 0 ∧ s.store.status.onLine = true) ∨ (vin ≠ 0 ∧ s.store.status.onBattery = true) then
        (.warning, { s with
          store := applyEvents (statusEvents
            { onLine := decide (vin ≠ 0), onBattery := decide (vin = 0), bypass := s.store.status.bypass }) s.store
          log := s.log ++ [{ code := .statusCorrected, arg := vin }] })
      else (nx, s)

/-- A tick whose transport answers a failure (44_pollfsm.md R180, R201, 43_exchange_dispatch.md R150): in RUNNING, a send or receive that answers 0 ends TIMEOUT with RXLEN 0, one that answers below 0 ends IO_ERROR with RXLEN −1, each with the exchange's record and the acceptance's in the log; nothing is received after a failed send; PHASE, DATAFLAG, RESULT and RC stay, no byte of RXBUF keeps a definite value (70_reset_and_hazards.md R264 as log 20 reads it), and the only store event is MARK_STALE. -/
def Obligations.TickWithoutAReplyMarksStale : Prop :=
  ∀ (s : State) (r : Int) (sends : List Int), s.mode = .running → s.transport.sendAnswers = r :: sends →
    (r ≤ 0 → ∃ tx : Memory, Stored s.tx tx (frameOf s (asciiChars4 (reqCid s.cfg s.phase)) (reqPayload s.cfg s.phase))
      ∧ exec .tick s = .next (ended (if r = 0 then .timeout else .ioError) { s with
          tx := tx, txlen := BitVec.ofNat 8 (18 + (reqPayload s.cfg s.phase).length), rxlen := if r = 0 then 0 else -1, rx := []
          transport := { s.transport with
            sendAnswers := sends
            requests := s.transport.requests
              ++ [.flush, .send (frameOf s (asciiChars4 (reqCid s.cfg s.phase)) (reqPayload s.cfg s.phase))] }
          log := s.log ++ (if r = 0 then [⟨.txTimeout, 0⟩, ⟨.rxTimeout, 0⟩] else [⟨.txIoerr, r⟩, ⟨.rxIoerr, -1⟩])
          store := applyEvents [.markStale] s.store }))
    ∧ (0 < r → ∀ (a : RecvAnswer) (recvs : List RecvAnswer), s.transport.recvAnswers = a :: recvs →
      RecvAnswer.result a 128 ≤ 0 →
      ∃ tx : Memory, Stored s.tx tx (frameOf s (asciiChars4 (reqCid s.cfg s.phase)) (reqPayload s.cfg s.phase))
      ∧ exec .tick s = .next (ended (if RecvAnswer.result a 128 = 0 then .timeout else .ioError) { s with
          tx := tx, txlen := BitVec.ofNat 8 (18 + (reqPayload s.cfg s.phase).length)
          rxlen := if RecvAnswer.result a 128 = 0 then 0 else -1, rx := []
          transport :=
            { sendAnswers := sends
              recvAnswers := recvs
              requests := s.transport.requests
                ++ [.flush, .send (frameOf s (asciiChars4 (reqCid s.cfg s.phase)) (reqPayload s.cfg s.phase)), .recv 128] }
          log := s.log ++ (if RecvAnswer.result a 128 = 0 then [⟨.rxTimeout, 0⟩, ⟨.rxTimeout, 0⟩]
            else [⟨.rxIoerr, RecvAnswer.result a 128⟩, ⟨.rxIoerr, -1⟩])
          store := applyEvents [.markStale] s.store }))

/-- A tick that ends with any other outcome than OK (44_pollfsm.md R180, R201): PHASE and DATAFLAG are unchanged, and the only store event is MARK_STALE, which sets the mark and leaves the committed sets and the facts (10_state.md R41). -/
def Obligations.FailedTickOnlyMarksStale : Prop :=
  ∀ s t : State, s.mode = .running → exec .tick s = .next t → t.outcome ≠ .ok →
    t.phase = s.phase ∧ t.dataflag = s.dataflag ∧ t.store = applyEvents [.markStale] s.store
    ∧ t.store.mark = .stale ∧ t.store.status = s.store.status ∧ t.store.alarms = s.store.alarms ∧ t.store.facts = s.store.facts
    ∧ t.str = s.str ∧ t.strlen = s.strlen ∧ t.attempts = s.attempts ∧ t.mode = s.mode

/-- A tick whose reply is too short or carries a nonzero return code (44_pollfsm.md R180, R190, 41_codec.md R107): SHORT_READ, or REJECTED with the code in RC and its cause index in RESULT. -/
def Obligations.TickRejectsBadReplies : Prop :=
  ∀ (s : State) (sends : List Int) (recvs : List RecvAnswer) (reply : List Byte), s.mode = .running →
    AnswersReply s sends recvs reply →
    (reply.length < (match s.phase with | .onoff => 33 | .analog => 99 | .warning => 67 | .sysparam => 119) →
      ∃ tx rx : Memory, Stored s.tx tx (frameOf s (asciiChars4 (reqCid s.cfg s.phase)) (reqPayload s.cfg s.phase))
        ∧ HoldsOnly rx reply
        ∧ exec .tick s = .next (endedLog .shortRead .shortRead reply.length { exchanged tx rx
            (frameOf s (asciiChars4 (reqCid s.cfg s.phase)) (reqPayload s.cfg s.phase)) reply sends recvs s with
          store := applyEvents [.markStale] s.store }))
    ∧ ((match s.phase with | .onoff => 33 | .analog => 99 | .warning => 67 | .sysparam => 119) ≤ reply.length →
      ∀ rc, parseHex (charsAt reply 7 2) = some rc → rc ≠ 0 →
      ∃ tx rx : Memory, Stored s.tx tx (frameOf s (asciiChars4 (reqCid s.cfg s.phase)) (reqPayload s.cfg s.phase))
        ∧ HoldsOnly rx reply
        ∧ exec .tick s = .next (endedLog .rejected .rejected rc { exchanged tx rx
            (frameOf s (asciiChars4 (reqCid s.cfg s.phase)) (reqPayload s.cfg s.phase)) reply sends recvs s with
          rc := BitVec.ofNat 8 rc, result := BitVec.ofNat 64 (if rc ≤ 6 then rc else 7)
          store := applyEvents [.markStale] s.store }))

/-- A successful ONOFF tick (44_pollfsm.md R180, R183, R194): the four fields, the status transaction, the two mapped facts, the anomalies, the next phase by the data flag. The store's committed status set (10_state.md R41) is then the union of the two mapped sets, its two facts are the mapped values (as before where the map gave an ANOMALY), its alarms are as before, its mark FRESH. -/
def Obligations.OnoffTickPublishes : Prop :=
  ∀ (s : State) (sends : List Int) (recvs : List RecvAnswer) (reply : List Byte),
    s.mode = .running → s.phase = .onoff → s.cfg.verifyRx = false →
    AnswersReply s sends recvs reply → 33 ≤ reply.length → parseHex (charsAt reply 7 2) = some 0 →
    ∃ (tx rx : Memory) (df p r c t : Nat) (d : Nat) (u : State),
      Stored s.tx tx (frameOf s (asciiChars4 s.cfg.cidOnoff) (payloadChars s.cfg.reqOnoff)) ∧ HoldsOnly rx reply
      ∧ ByteField (charsAt reply (13 + s.cfg.dataflagOff) 2) df
      ∧ ByteField (charsAt reply (13 + s.cfg.onoffLayout.psrc) 2) p
      ∧ ByteField (charsAt reply (13 + s.cfg.onoffLayout.rsrc) 2) r
      ∧ ByteField (charsAt reply (13 + s.cfg.onoffLayout.chg) 2) c
      ∧ ByteField (charsAt reply (13 + s.cfg.onoffLayout.test) 2) t
      ∧ exec .tick s = .next u
      ∧ u.store.status = StatusSet.union ((mapCode s.cfg.statusMapP p).getD StatusSet.empty)
          ((mapCode s.cfg.statusMapR r).getD StatusSet.empty)
      ∧ Store.factOf u.store .chargerStatus
        = (match mapCharger s.cfg.chgMap c with | some v => some (.charger v) | none => Store.factOf s.store .chargerStatus)
      ∧ Store.factOf u.store .batteryTest
        = (match mapCode s.cfg.testMap t with | some v => some (.test v) | none => Store.factOf s.store .batteryTest)
      ∧ u.store.alarms = s.store.alarms ∧ u.store.mark = .fresh
      ∧ u = (ended .ok (published (flagOverride s.cfg df .analog) df
          (statusEvents (StatusSet.union ((mapCode s.cfg.statusMapP p).getD StatusSet.empty)
              ((mapCode s.cfg.statusMapR r).getD StatusSet.empty))
            ++ (match mapCharger s.cfg.chgMap c with | some v => [.fact .chargerStatus (.charger v)] | none => [])
            ++ (match mapCode s.cfg.testMap t with | some v => [.fact .batteryTest (.test v)] | none => []))
          ((if mapCode s.cfg.statusMapP p = none then [⟨.anomalyPsrc, p⟩] else [])
            ++ (if mapCode s.cfg.statusMapR r = none then [⟨.anomalyRsrc, r⟩] else [])
            ++ (if mapCharger s.cfg.chgMap c = none then [⟨.anomalyChg, c⟩] else [])
            ++ (if mapCode s.cfg.testMap t = none then [⟨.anomalyTest, t⟩] else []))
          (hasNonhex (charsAt reply (13 + s.cfg.dataflagOff) 2) || hasNonhex (charsAt reply (13 + s.cfg.onoffLayout.psrc) 2)
            || hasNonhex (charsAt reply (13 + s.cfg.onoffLayout.rsrc) 2) || hasNonhex (charsAt reply (13 + s.cfg.onoffLayout.chg) 2)
            || hasNonhex (charsAt reply (13 + s.cfg.onoffLayout.test) 2))
          (accepted reply (exchanged tx rx (frameOf s (asciiChars4 s.cfg.cidOnoff) (payloadChars s.cfg.reqOnoff)) reply sends recvs
            { s with draws := d }))))

/-- A successful ANALOG tick (44_pollfsm.md R180, R195, R196): nine exact facts in the table's order, then the status correction where the input voltage and the store's status set call for it, which forces WARNING. The store then holds the nine facts and, as its committed status set (10_state.md R41), the corrected one, or the one it had where nothing was corrected; its alarms are as before, its mark FRESH. -/
def Obligations.AnalogTickPublishes : Prop :=
  ∀ (s : State) (sends : List Int) (recvs : List RecvAnswer) (reply : List Byte),
    s.mode = .running → s.phase = .analog → s.cfg.verifyRx = false →
    AnswersReply s sends recvs reply → 99 ≤ reply.length → parseHex (charsAt reply 7 2) = some 0 →
    ∃ (tx rx : Memory) (df : Nat) (raw : AnalogFact → Nat) (d : Nat) (u : State),
      Stored s.tx tx (frameOf s (asciiChars4 s.cfg.cidAnalog) (payloadChars s.cfg.reqAnalog)) ∧ HoldsOnly rx reply
      ∧ ByteField (charsAt reply (13 + s.cfg.dataflagOff) 2) df
      ∧ (∀ k, HexValue (charsAt reply (analogOffset s.cfg.analogLayout k) 4) (raw k))
      ∧ exec .tick s = .next u
      ∧ (∀ k, Store.factOf u.store (.analog k)
          = some (.number (raw k * (if k = .realpower ∨ k = .apparentPower then 10 else 1 / 100))))
      ∧ (u.store.status =
          if (raw .inputVoltage = 0 ∧ s.store.status.onLine = true) ∨ (raw .inputVoltage ≠ 0 ∧ s.store.status.onBattery = true) then
            { onLine := decide (raw .inputVoltage ≠ 0), onBattery := decide (raw .inputVoltage = 0), bypass := s.store.status.bypass }
          else s.store.status)
      ∧ u.store.alarms = s.store.alarms ∧ u.store.mark = .fresh
      ∧ u = (ended .ok (published
          (if (raw .inputVoltage = 0 ∧ s.store.status.onLine = true) ∨ (raw .inputVoltage ≠ 0 ∧ s.store.status.onBattery = true)
            then .warning else flagOverride s.cfg df .warning)
          df
          ([.fact (.analog .inputVoltage) (.number (raw .inputVoltage * (1 / 100))),
            .fact (.analog .outputVoltage) (.number (raw .outputVoltage * (1 / 100))),
            .fact (.analog .outputCurrent) (.number (raw .outputCurrent * (1 / 100))),
            .fact (.analog .batteryVoltage) (.number (raw .batteryVoltage * (1 / 100))),
            .fact (.analog .outputFrequency) (.number (raw .outputFrequency * (1 / 100))),
            .fact (.analog .inputFrequency) (.number (raw .inputFrequency * (1 / 100))),
            .fact (.analog .realpower) (.number (raw .realpower * 10)),
            .fact (.analog .apparentPower) (.number (raw .apparentPower * 10)),
            .fact (.analog .runtimeLow) (.number (raw .runtimeLow * (1 / 100)))]
            ++ (if (raw .inputVoltage = 0 ∧ s.store.status.onLine = true)
                  ∨ (raw .inputVoltage ≠ 0 ∧ s.store.status.onBattery = true)
                then statusEvents { onLine := decide (raw .inputVoltage ≠ 0), onBattery := decide (raw .inputVoltage = 0), bypass := s.store.status.bypass }
                else []))
          (if (raw .inputVoltage = 0 ∧ s.store.status.onLine = true) ∨ (raw .inputVoltage ≠ 0 ∧ s.store.status.onBattery = true)
            then [⟨.statusCorrected, raw .inputVoltage⟩] else [])
          (hasNonhex (charsAt reply (13 + s.cfg.dataflagOff) 2)
            || ([.inputVoltage, .outputVoltage, .outputCurrent, .batteryVoltage, .outputFrequency, .inputFrequency, .realpower,
                .apparentPower, .runtimeLow] : List AnalogFact).any
              (fun k => hasNonhex (charsAt reply (analogOffset s.cfg.analogLayout k) 4)))
          (accepted reply (exchanged tx rx (frameOf s (asciiChars4 s.cfg.cidAnalog) (payloadChars s.cfg.reqAnalog)) reply sends recvs
            { s with draws := d }))))

/-- A successful WARNING tick (44_pollfsm.md R180, R197): ALARM_INIT, ALARM_SET for every slot that is no placeholder and holds an active code, in order, ALARM_COMMIT; every other nonzero code of such a slot is logged; the next phase is ONOFF whatever the data flag. The store's committed alarm set (10_state.md R41) is then exactly the active slots that are no placeholder; its status set and its facts are as before, its mark FRESH. -/
def Obligations.WarningTickPublishes : Prop :=
  ∀ (s : State) (sends : List Int) (recvs : List RecvAnswer) (reply : List Byte),
    s.mode = .running → s.phase = .warning → s.cfg.verifyRx = false →
    AnswersReply s sends recvs reply → 67 ≤ reply.length → parseHex (charsAt reply 7 2) = some 0 →
    ∃ (tx rx : Memory) (df : Nat) (v : Fin 26 → Nat) (d : Nat) (u : State),
      Stored s.tx tx (frameOf s (asciiChars4 s.cfg.cidWarning) (payloadChars s.cfg.reqWarning)) ∧ HoldsOnly rx reply
      ∧ ByteField (charsAt reply (13 + s.cfg.dataflagOff) 2) df
      ∧ (∀ i : Fin 26, ByteField (charsAt reply (13 + s.cfg.warnBase + 2 * i) 2) (v i))
      ∧ exec .tick s = .next u
      ∧ (∀ i : Fin 26, u.store.alarms.get i = true ↔
          (s.cfg.warnName.slots.get i).isSome = true ∧ (v i = 0x01 ∨ v i = 0x02 ∨ v i = 0x03 ∨ v i = 0xF0))
      ∧ u.store.status = s.store.status ∧ u.store.facts = s.store.facts ∧ u.store.mark = .fresh
      ∧ u = (ended .ok (published .onoff df
          ([.alarmInit]
            ++ ((List.finRange 26).filter (fun i =>
                (s.cfg.warnName.slots.get i).isSome && ([0x01, 0x02, 0x03, 0xF0] : List Nat).contains (v i))).map .alarmSet
            ++ [.alarmCommit])
          (((List.finRange 26).filter (fun i =>
              (s.cfg.warnName.slots.get i).isSome && !([0x00, 0x01, 0x02, 0x03, 0xF0] : List Nat).contains (v i))).map
            (fun i => ⟨.anomalyWarn, (256 * i.val + v i : Nat)⟩))
          (hasNonhex (charsAt reply (13 + s.cfg.dataflagOff) 2)
            || (List.finRange 26).any (fun i =>
                (s.cfg.warnName.slots.get i).isSome && hasNonhex (charsAt reply (13 + s.cfg.warnBase + 2 * i) 2)))
          (accepted reply (exchanged tx rx (frameOf s (asciiChars4 s.cfg.cidWarning) (payloadChars s.cfg.reqWarning)) reply sends recvs
            { s with draws := d }))))

/-- A successful SYSPARAM tick whose seven fields are hex digits (44_pollfsm.md R180, R198): the facts in order, a threshold only where its enable field equals 1, the interval raw × 324000; the next phase is WARNING whatever the data flag. The store then holds these facts (10_state.md R41), a threshold that is not enabled as before; its committed sets are as before, its mark FRESH. -/
def Obligations.SysparamTickPublishes : Prop :=
  ∀ (s : State) (sends : List Int) (recvs : List RecvAnswer) (reply : List Byte),
    s.mode = .running → s.phase = .sysparam → s.cfg.verifyRx = false →
    AnswersReply s sends recvs reply → 119 ≤ reply.length → parseHex (charsAt reply 7 2) = some 0 →
    ∀ (df nv nf bh bhe bl ble ti : Nat),
      parseHex (charsAt reply (13 + s.cfg.dataflagOff) 2) = some df →
      (∀ q ∈ [(s.cfg.sysLayout.nomv, nv), (s.cfg.sysLayout.nomf, nf), (s.cfg.sysLayout.byph, bh), (s.cfg.sysLayout.byphe, bhe),
          (s.cfg.sysLayout.bypl, bl), (s.cfg.sysLayout.byple, ble), (s.cfg.sysLayout.tint, ti)],
        match q.1 with
        | .two k => parseHex (charsAt reply (13 + k) 2) = some q.2
        | .four k => parseHex (charsAt reply (13 + k) 4) = some q.2) →
      ∃ (tx rx : Memory) (u : State), Stored s.tx tx (frameOf s (asciiChars4 s.cfg.cidGetsys) (payloadChars s.cfg.reqGetsys)) ∧ HoldsOnly rx reply
      ∧ exec .tick s = .next u
      ∧ Store.factOf u.store .nominalOutputVoltage = some (.number (nv * scalingValue s.cfg.sysScale.nomv))
      ∧ Store.factOf u.store .nominalOutputFrequency = some (.number (nf * scalingValue s.cfg.sysScale.nomf))
      ∧ Store.factOf u.store .bypassHighThreshold
        = (if bhe = 1 then some (.number (bh * scalingValue s.cfg.sysScale.byph)) else Store.factOf s.store .bypassHighThreshold)
      ∧ Store.factOf u.store .bypassLowThreshold
        = (if ble = 1 then some (.number (bl * scalingValue s.cfg.sysScale.bypl)) else Store.factOf s.store .bypassLowThreshold)
      ∧ Store.factOf u.store .batteryTestInterval = some (.number (ti * 324000))
      ∧ u.store.status = s.store.status ∧ u.store.alarms = s.store.alarms ∧ u.store.mark = .fresh
      ∧ u = (ended .ok (published .warning df
          ([.fact .nominalOutputVoltage (.number (nv * scalingValue s.cfg.sysScale.nomv)),
            .fact .nominalOutputFrequency (.number (nf * scalingValue s.cfg.sysScale.nomf))]
            ++ (if bhe = 1 then [.fact .bypassHighThreshold (.number (bh * scalingValue s.cfg.sysScale.byph))] else [])
            ++ (if ble = 1 then [.fact .bypassLowThreshold (.number (bl * scalingValue s.cfg.sysScale.bypl))] else [])
            ++ [.fact .batteryTestInterval (.number (ti * 324000))])
          [] false
          (accepted reply (exchanged tx rx (frameOf s (asciiChars4 s.cfg.cidGetsys) (payloadChars s.cfg.reqGetsys)) reply sends recvs s))))

/-- A SYSPARAM tick goes on and ends OK whatever its fields hold (44_pollfsm.md R198, R183, R202): a field of hex digits has their value, any other a free value (a two-character one below 256, log 17), DATAFLAG too; NONHEX is set exactly where a character of the data flag or of one of the seven fields is not a hex digit; the facts, the committed sets and the next phase follow from the values as for a reply of hex digits. -/
def Obligations.SysparamTickSurvivesBadCharacters : Prop :=
  ∀ (s : State) (sends : List Int) (recvs : List RecvAnswer) (reply : List Byte),
    s.mode = .running → s.phase = .sysparam → s.cfg.verifyRx = false →
    AnswersReply s sends recvs reply → 119 ≤ reply.length → parseHex (charsAt reply 7 2) = some 0 →
    ∃ (tx rx : Memory) (df nv nf bh bhe bl ble ti d : Nat) (u : State),
      Stored s.tx tx (frameOf s (asciiChars4 s.cfg.cidGetsys) (payloadChars s.cfg.reqGetsys)) ∧ HoldsOnly rx reply
      ∧ ByteField (charsAt reply (13 + s.cfg.dataflagOff) 2) df
      ∧ SysFieldValue reply s.cfg.sysLayout.nomv nv ∧ SysFieldValue reply s.cfg.sysLayout.nomf nf
      ∧ SysFieldValue reply s.cfg.sysLayout.byph bh ∧ SysFieldValue reply s.cfg.sysLayout.byphe bhe
      ∧ SysFieldValue reply s.cfg.sysLayout.bypl bl ∧ SysFieldValue reply s.cfg.sysLayout.byple ble
      ∧ SysFieldValue reply s.cfg.sysLayout.tint ti
      ∧ exec .tick s = .next u ∧ u.outcome = .ok ∧ u.phase = .warning ∧ u.log = s.log ∧ u.dataflag = BitVec.ofNat 8 df
      ∧ Store.factOf u.store .nominalOutputVoltage = some (.number (nv * scalingValue s.cfg.sysScale.nomv))
      ∧ Store.factOf u.store .nominalOutputFrequency = some (.number (nf * scalingValue s.cfg.sysScale.nomf))
      ∧ Store.factOf u.store .bypassHighThreshold
        = (if bhe = 1 then some (.number (bh * scalingValue s.cfg.sysScale.byph)) else Store.factOf s.store .bypassHighThreshold)
      ∧ Store.factOf u.store .bypassLowThreshold
        = (if ble = 1 then some (.number (bl * scalingValue s.cfg.sysScale.bypl)) else Store.factOf s.store .bypassLowThreshold)
      ∧ Store.factOf u.store .batteryTestInterval = some (.number (ti * 324000))
      ∧ u.store.status = s.store.status ∧ u.store.alarms = s.store.alarms ∧ u.store.mark = .fresh
      ∧ u = ended .ok (published .warning df
          ([.fact .nominalOutputVoltage (.number (nv * scalingValue s.cfg.sysScale.nomv)),
            .fact .nominalOutputFrequency (.number (nf * scalingValue s.cfg.sysScale.nomf))]
            ++ (if bhe = 1 then [.fact .bypassHighThreshold (.number (bh * scalingValue s.cfg.sysScale.byph))] else [])
            ++ (if ble = 1 then [.fact .bypassLowThreshold (.number (bl * scalingValue s.cfg.sysScale.bypl))] else [])
            ++ [.fact .batteryTestInterval (.number (ti * 324000))])
          []
          (hasNonhex (charsAt reply (13 + s.cfg.dataflagOff) 2)
            || [s.cfg.sysLayout.nomv, s.cfg.sysLayout.nomf, s.cfg.sysLayout.byph, s.cfg.sysLayout.byphe, s.cfg.sysLayout.bypl,
                s.cfg.sysLayout.byple, s.cfg.sysLayout.tint].any (fun f => hasNonhex (sysFieldChars reply f)))
          (accepted reply (exchanged tx rx (frameOf s (asciiChars4 s.cfg.cidGetsys) (payloadChars s.cfg.reqGetsys)) reply sends
            recvs { s with draws := d })))

/-- With received checksums verified (VERIFY_RX, 41_codec.md R118, R115), a tick whose reply is long enough, carries return code 0 and a right LENGTH field of at most 110, and was received up to its CHKSUM field, ends OK with RESULT the reply's byte count where the covered bytes and the checksum sum to 0 mod 65536; else it ends BAD_CHK with RESULT the received checksum, the phase unchanged and MARK_STALE the only store event. -/
def Obligations.VerifyingTicksCheckTheChecksums : Prop :=
  ∀ (s : State) (sends : List Int) (recvs : List RecvAnswer) (reply : List Byte) (w v : Nat),
    s.mode = .running → s.cfg.verifyRx = true → AnswersReply s sends recvs reply →
    (match s.phase with | .onoff => 33 | .analog => 99 | .warning => 67 | .sysparam => 119) ≤ reply.length →
    parseHex (charsAt reply 7 2) = some 0 → parseHex (charsAt reply 9 4) = some w →
    (w / 4096 + w % 16 + w / 16 % 16 + w / 256 % 16) % 16 = 0 → w % 4096 ≤ 110 → 17 + w % 4096 ≤ reply.length →
    parseHex (charsAt reply (13 + w % 4096) 4) = some v →
    ∃ t, exec .tick s = .next t
      ∧ (if (byteSum (charsAt reply 1 (12 + w % 4096)) + v) % 65536 = 0 then
          t.outcome = .ok ∧ t.result = BitVec.ofNat 64 reply.length ∧ t.store.mark = .fresh
        else
          t.outcome = .badChk ∧ t.result = BitVec.ofNat 64 v ∧ t.phase = s.phase
          ∧ t.store = applyEvents [.markStale] s.store)

/-- The stale bytes of RXBUF never matter (70_reset_and_hazards.md R264): two machines in RUNNING or UNINIT that differ only in RXBUF are, after a TICK, an EXECUTE, a PROBE or an EXCHANGE, alike in everything but RXBUF, and alike in RXBUF too where the command made an exchange (a failed one leaves no definite byte in RXBUF, log 20). -/
def Obligations.StaleReplyBytesNeverMatter : Prop :=
  ∀ (i : Instr) (s : State) (rx : Memory), (i = .tick ∨ i = .exchange ∨ i = .probe ∨ ∃ k, i = .execute k) →
    ∃ (t : State) (rx' : Memory), exec i s = .next t ∧ exec i { s with rx := rx } = .next { t with rx := rx' }
      ∧ (modeRuns s.mode i = true → (∀ k, i = .execute k → k < 4) → (i = .exchange → s.pllen.toNat ≤ 110) → rx' = t.rx)

/-! ## Invariants -/

/-- Every step keeps the invariant of the machine (Sys2Proof/Safety.lean), from every state that has it. -/
def Obligations.EveryStepKeepsTheInvariant : Prop :=
  ∀ s t : State, Inv s → step s = .next t → Inv t

/-- The machine has the invariant right after reset. -/
def Obligations.ResetHasTheInvariant : Prop := Inv State.reset

/-! ## The host interface -/

/-- A host write to CMD (20_memory.md R60): accepted while BUSY = 0, ignored with OVERRUN set while BUSY = 1. -/
def Obligations.CmdWriteIssuesOrOverruns : Prop :=
  ∀ (w : Word) (s : State),
    (s.busy = false → hostWrite 32 0x000 w s = { s with pending := w, busy := true, done := false })
    ∧ (s.busy = true → hostWrite 32 0x000 w s = { s with overrun := true })

/-- A host access while BUSY = 1 (20_memory.md R61). An admitted one: a write to any address but STATUS is ignored and sets OVERRUN; a read of any address but STATUS changes nothing but the host's data, which is a free value; a read of STATUS is exact. One that R51 does not admit, which R51 and R61 both speak of (log 8): whichever is followed, a write changes nothing but BUSERR and OVERRUN, a read nothing but BUSERR, the host's data and the counter of free values, and neither clears a sticky bit. -/
def Obligations.HostAccessesWhileBusy : Prop :=
  (∀ (a : BitVec 12) (v : Word) (s : State), s.busy = true → a.toNat % 4 = 0 → Mapped a.toNat →
    (a ≠ 0x004 → hostWrite 32 a v s = { s with overrun := true })
    ∧ (a ≠ 0x004 → ∃ x d, hostRead 32 a s = { s with hostData := x, draws := d })
    ∧ hostRead 32 0x004 s = { s with hostData := statusWord s })
  ∧ ∀ (width : Nat) (a : BitVec 12) (v : Word) (s : State), s.busy = true →
    ¬(width = 32 ∧ a.toNat % 4 = 0 ∧ Mapped a.toNat) →
    (∃ b o, hostWrite width a v s = { s with buserr := b, overrun := o }
      ∧ (s.buserr = true → b = true) ∧ (s.overrun = true → o = true))
    ∧ ∃ b x d, hostRead width a s = { s with buserr := b, hostData := x, draws := d } ∧ (s.buserr = true → b = true)

/-- A host access that is not 32 bits wide, not aligned or not mapped, while BUSY = 0 (20_memory.md R51; while BUSY = 1 see HostAccessesWhileBusy): it reads 0, is ignored and sets BUSERR; a good one does not set it. -/
def Obligations.BadHostAccessesSetBuserr : Prop :=
  ∀ (width : Nat) (a : BitVec 12) (v : Word) (s : State), s.busy = false →
    (¬(width = 32 ∧ a.toNat % 4 = 0 ∧ Mapped a.toNat) →
      hostRead width a s = { s with buserr := true, hostData := 0 } ∧ hostWrite width a v s = { s with buserr := true })
    ∧ (width = 32 → a.toNat % 4 = 0 → Mapped a.toNat → (hostRead width a s).buserr = s.buserr
      ∧ (a ≠ 0x004 → (hostWrite width a v s).buserr = s.buserr))

/-- A host write to STATUS, at any time (10_state.md R24): it clears exactly the sticky bits written as 1. -/
def Obligations.StatusWriteClearsStickyBits : Prop :=
  ∀ (v : Word) (s : State), hostWrite 32 0x004 v s =
    { s with
      overrun := s.overrun && !v.getLsbD 4, nonhex := s.nonhex && !v.getLsbD 5, buserr := s.buserr && !v.getLsbD 6 }

/-- The STATUS word (10_state.md R24): its bits, and zeros from bit 7 on. -/
def Obligations.StatusWordBits : Prop :=
  ∀ s : State, (statusWord s).getLsbD 0 = s.busy ∧ (statusWord s).getLsbD 1 = s.done
    ∧ (statusWord s).extractLsb' 2 2 = (match s.mode with | .uninit => 0 | .running => 1 | .fatal => 2)
    ∧ (statusWord s).getLsbD 4 = s.overrun ∧ (statusWord s).getLsbD 5 = s.nonhex ∧ (statusWord s).getLsbD 6 = s.buserr
    ∧ ∀ b, 7 ≤ b → (statusWord s).getLsbD b = false

/-- Host writes of the operand registers while BUSY = 0 (10_state.md R27, R29, R32, R33): RXLEN takes bits 15:0, CID all, PLLEN bits 7:0, and ADDR bits 15:0 only in UNINIT; nothing else changes. -/
def Obligations.HostWritesOperandRegisters : Prop :=
  ∀ (v : Word) (s : State), s.busy = false →
    hostWrite 32 0x030 v s = { s with rxlen := v.setWidth 16 }
    ∧ hostWrite 32 0x024 v s = { s with cid := v }
    ∧ hostWrite 32 0x028 v s = { s with pllen := v.setWidth 8 }
    ∧ hostWrite 32 0x01C v s = if s.mode = .uninit then { s with adr := v.setWidth 16 } else s

/-- Host writes to a register or window marked R alone are ignored, without BUSERR (20_memory.md R52). -/
def Obligations.ReadOnlyRegistersIgnoreWrites : Prop :=
  ∀ (a : BitVec 12) (v : Word) (s : State), s.busy = false → a.toNat % 4 = 0 →
    (a ∈ ([0x008, 0x00C, 0x010, 0x014, 0x018, 0x020, 0x02C, 0x034, 0x038, 0x03C] : List (BitVec 12))
      ∨ (0x100 ≤ a.toNat ∧ a.toNat ≤ 0x17F) ∨ (0x400 ≤ a.toNat ∧ a.toNat ≤ 0x47F)) →
    hostWrite 32 a v s = s

/-- Host reads of the registers while BUSY = 0 (10_state.md R23 to R37, 20_memory.md R52, R57): the register's value, sign-extended for RXLEN, the STATUS word for STATUS (so a host sees DONE, R63), the number 60_exceptions.md R220 gives for OUTCOME and R31 for PHASE, and no side effect. The field that holds the data read is the model's (log 12). -/
def Obligations.HostReadsRegisters : Prop :=
  ∀ s : State, s.busy = false →
    hostRead 32 0x000 s = { s with hostData := 0 }
    ∧ hostRead 32 0x004 s = { s with hostData := statusWord s }
    ∧ hostRead 32 0x008 s = { s with hostData := BitVec.ofNat 32 (outcomeNumber s.outcome) }
    ∧ hostRead 32 0x00C s = { s with hostData := s.result.setWidth 32 }
    ∧ hostRead 32 0x010 s = { s with hostData := (s.result >>> 32).setWidth 32 }
    ∧ hostRead 32 0x014 s = { s with hostData := s.rc.setWidth 32 }
    ∧ hostRead 32 0x018 s = { s with hostData := BitVec.ofNat 32 (phaseNumber s.phase) }
    ∧ hostRead 32 0x01C s = { s with hostData := s.adr.setWidth 32 }
    ∧ hostRead 32 0x020 s = { s with hostData := s.ver.setWidth 32 }
    ∧ hostRead 32 0x024 s = { s with hostData := s.cid }
    ∧ hostRead 32 0x028 s = { s with hostData := s.pllen.setWidth 32 }
    ∧ hostRead 32 0x02C s = { s with hostData := s.txlen.setWidth 32 }
    ∧ hostRead 32 0x030 s = { s with hostData := s.rxlen.signExtend 32 }
    ∧ hostRead 32 0x034 s = { s with hostData := s.strlen.setWidth 32 }
    ∧ hostRead 32 0x038 s = { s with hostData := s.dataflag.setWidth 32 }
    ∧ hostRead 32 0x03C s = { s with hostData := s.attempts.setWidth 32 }

/-- Buffer windows are little-endian (20_memory.md R53, 10_state.md R38): a host word written to RXBUF or PLBUF while BUSY = 0 puts bits 8k+7:8k into byte 4j + k and changes no other byte and nothing else, PLBUF's bytes 110 and 111 apart, which ignore writes. -/
def Obligations.HostWordWritesFourBytes : Prop :=
  ∀ (j : Nat) (v : Word) (s : State), s.busy = false →
    (j < 32 → ∃ rx : Memory, hostWrite 32 (BitVec.ofNat 12 (0x200 + 4 * j)) v s = { s with rx := rx }
      ∧ (∀ k, k < 4 → Memory.read rx (4 * j + k) = some (v.extractLsb' (8 * k) 8))
      ∧ ∀ i, i < 4 * j ∨ 4 * j + 4 ≤ i → Memory.read rx i = Memory.read s.rx i)
    ∧ (j < 28 → ∃ pl : Memory, hostWrite 32 (BitVec.ofNat 12 (0x300 + 4 * j)) v s = { s with pl := pl }
      ∧ (∀ k, k < 4 → 4 * j + k < 110 → Memory.read pl (4 * j + k) = some (v.extractLsb' (8 * k) 8))
      ∧ ∀ i, i < 4 * j ∨ 4 * j + 4 ≤ i ∨ 110 ≤ i → Memory.read pl i = Memory.read s.pl i)

/-- A host read of a window word while BUSY = 0 (20_memory.md R53, R57, 10_state.md R38). Whatever was written, it changes nothing but the host's data and the counter of free values; each written byte stands in its place, little-endian, and PLBUF's bytes 110 and 111 read 0. Where all four bytes were written it gives them and draws no free value. -/
def Obligations.HostWordReadsFourBytes : Prop :=
  ∀ (s : State) (b : Buf) (base : Nat) (j : Nat), s.busy = false →
    ((b = .tx ∧ base = 0x100 ∧ j < 32) ∨ (b = .rx ∧ base = 0x200 ∧ j < 32) ∨ (b = .pl ∧ base = 0x300 ∧ j < 28)
      ∨ (b = .str ∧ base = 0x400 ∧ j < 32)) →
    (∃ (x : Word) (d : Nat), hostRead 32 (BitVec.ofNat 12 (base + 4 * j)) s = { s with hostData := x, draws := d }
      ∧ ∀ k, k < 4 →
        (b = .pl ∧ 110 ≤ 4 * j + k → x.extractLsb' (8 * k) 8 = 0)
        ∧ (¬(b = .pl ∧ 110 ≤ 4 * j + k) → ∀ v, Memory.read (s.buf b) (4 * j + k) = some v → x.extractLsb' (8 * k) 8 = v))
    ∧ ∀ b0 b1 b2 b3 : Byte, Memory.read (s.buf b) (4 * j) = some b0 → Memory.read (s.buf b) (4 * j + 1) = some b1 →
      ((b = .pl ∧ j = 27 ∧ b2 = 0 ∧ b3 = 0)
        ∨ (¬(b = .pl ∧ j = 27) ∧ Memory.read (s.buf b) (4 * j + 2) = some b2 ∧ Memory.read (s.buf b) (4 * j + 3) = some b3)) →
      hostRead 32 (BitVec.ofNat 12 (base + 4 * j)) s = { s with hostData := b3 ++ b2 ++ b1 ++ b0 }

/-- ADDR is read-only after initialization (10_state.md R29, 60_exceptions.md R229): a step changes it only by a reset, or by a host write while MODE = UNINIT and BUSY = 0. -/
def Obligations.AddrChangesOnlyBeforeTheProbe : Prop :=
  ∀ s t : State, step s = .next t → t.adr ≠ s.adr →
    (∃ rest, s.turns = .reset :: rest)
    ∨ (s.mode = .uninit ∧ s.busy = false ∧ ∃ v rest, s.turns = .hostWrite 32 0x01C v :: rest ∧ t.adr = v.setWidth 16)
end

