-- ==== Sys2Proof/Laws/Frame.lean ====
section
/-! SUPPORT. The small facts of the pure computations: lengths of characters, hex renderings and frames, and the values of hex digits (30_encoding.md R80, R81, 41_codec.md R101 to R106). -/

namespace Sys2Proof.Machine

open Sys2Proof.Config

@[simp] theorem chars2_length (w : BitVec 16) : (chars2 w).length = 2 := rfl

@[simp] theorem chars4_length (w : BitVec 32) : (chars4 w).length = 4 := rfl

@[simp] theorem asciiChars4_length (a : Ascii4) : (asciiChars4 a).length = 4 := rfl

/-- The register of a two-character parameter holds its characters in order (20_memory.md R53). -/
@[simp] theorem chars2_asciiReg2 (a : Ascii2) : chars2 (asciiReg2 a) = [asciiByte a.c0, asciiByte a.c1] := by
  have h0 (x y : Byte) : (x ++ y).extractLsb' 0 8 = y := by
    ext i hi
    rw [BitVec.getElem_extractLsb', BitVec.getLsbD_append]
    simp [hi]
  have h8 (x y : Byte) : (x ++ y).extractLsb' 8 8 = x := by
    ext i hi
    rw [BitVec.getElem_extractLsb', BitVec.getLsbD_append]
    simp [hi]
  exact congrArg₂ (fun x y => [x, y]) (h0 _ _) (h8 _ _)

/-- An ASCII character's byte is below 0x80 (00_scope.md R7). -/
theorem asciiByte_lt (c : AsciiChar) : (asciiByte c).toNat < 128 := by
  simp [asciiByte]
  omega

/-- U14's bound: no request payload is longer than 110 characters. -/
theorem payloadChars_length_le (p : Payload) : (payloadChars p).length ≤ 110 := by
  simp [payloadChars]

@[simp] theorem renderHex_length (k v : Nat) : (renderHex k v).length = k := by
  induction k with
  | zero => rfl
  | succ k ih => simp [renderHex, ih]

@[simp] theorem hex4_length (v : Nat) : (hex4 v).length = 4 := renderHex_length 4 v

@[simp] theorem lenField_length (l : Nat) : (lenField l).length = 4 := hex4_length _

theorem frameBody_length {c v a : List Byte} (p : List Byte) (hc : c.length = 4) (hv : v.length = 2) (ha : a.length = 2) :
    (frameBody c v a p).length = 12 + p.length := by
  simp [frameBody, hc, hv, ha]
  omega

/-- R81's invariant: a frame with an L-character payload has 18 + L bytes. -/
theorem buildFrame_length (cfg : Params) {c v a : List Byte} (p : List Byte) (hc : c.length = 4) (hv : v.length = 2)
    (ha : a.length = 2) : (buildFrame cfg c v a p).length = 18 + p.length := by
  simp [buildFrame, frameBody_length p hc hv ha]
  omega

@[simp] theorem hexDigit_hexChar {d : Nat} (h : d < 16) : hexDigit (hexChar d) = some d := by
  interval_cases d <;> rfl

/-- A hex digit's value is below 16. -/
theorem hexDigit_lt {c : Byte} {d : Nat} (h : hexDigit c = some d) : d < 16 := by
  unfold hexDigit at h
  split at h
  · cases h; omega
  · split at h
    · cases h; omega
    · split at h
      · cases h; omega
      · cases h

theorem parseHexFrom_cons (v : Nat) (c : Byte) (s : List Byte) :
    parseHexFrom v (c :: s) = (hexDigit c).bind fun d => parseHexFrom (16 * v + d) s := by
  simp only [parseHexFrom]
  cases hexDigit c <;> rfl

/-- A string of k hex digits has a value below 16^k (42_hexdecode.md R130), and so has a loop that starts at `v`. -/
theorem parseHexFrom_lt {v w : Nat} {s : List Byte} (h : parseHexFrom v s = some w) : w < (v + 1) * 16 ^ s.length := by
  induction s generalizing v with
  | nil =>
    cases h
    simp
  | cons c s ih =>
    rw [parseHexFrom_cons] at h
    obtain ⟨d, hd, h⟩ := Option.bind_eq_some_iff.mp h
    have hlt := hexDigit_lt hd
    calc w < (16 * v + d + 1) * 16 ^ s.length := ih h
      _ ≤ (16 * (v + 1)) * 16 ^ s.length := Nat.mul_le_mul_right _ (by omega)
      _ = (v + 1) * 16 ^ (c :: s).length := by rw [List.length_cons, Nat.pow_succ]; ring

theorem parseHex_lt {w : Nat} {s : List Byte} (h : parseHex s = some w) : w < 16 ^ s.length := by
  simpa using parseHexFrom_lt h

/-- What a receive answer delivers (10_state.md R40): at most n bytes, as many as its result says. -/
theorem RecvAnswer.data_length (a : RecvAnswer) {n : Nat} (h : 0 < RecvAnswer.result a n) :
    ((RecvAnswer.data a n).length : Int) = RecvAnswer.result a n := by
  cases a with
  | bytes b rest => simp [RecvAnswer.data, RecvAnswer.result]
  | timeout => simp [RecvAnswer.result] at h
  | ioError k => simp only [RecvAnswer.result] at h; omega

theorem RecvAnswer.result_le (a : RecvAnswer) (n : Nat) : RecvAnswer.result a n ≤ n := by
  cases a with
  | bytes b rest => simp only [RecvAnswer.result]; omega
  | timeout => simp [RecvAnswer.result]
  | ioError k => simp only [RecvAnswer.result]; omega

theorem RecvAnswer.data_length_le (a : RecvAnswer) (n : Nat) : (RecvAnswer.data a n).length ≤ n := by
  cases a <;> simp [RecvAnswer.data]

end Sys2Proof.Machine
end

