-- ==== Sys2Proof/Laws/Memory.lean ====
section
/-! SUPPORT. The laws of a buffer's cells: a read after a write, what a write leaves alone, and that every operation keeps the canonical form and the buffer's size (10_state.md R38). -/

namespace Sys2Proof.Machine

@[simp] theorem Memory.read_nil (i : Nat) : Memory.read [] i = none := rfl

theorem Memory.read_cons (k : Nat) (b : Byte) (m : Memory) (i : Nat) :
    Memory.read ((k, b) :: m) i = if k = i then some b else Memory.read m i := rfl

@[simp] theorem Memory.read_write_same (m : Memory) (i : Nat) (b : Byte) :
    Memory.read (Memory.write m i b) i = some b := by
  induction m with
  | nil => simp [Memory.write, Memory.read]
  | cons c m ih =>
    obtain ⟨k, x⟩ := c
    simp only [Memory.write]
    split
    · simp [Memory.read]
    · split
      · simp [Memory.read]
      · rename_i h1 h2
        simp [Memory.read, ih, Ne.symm h2]

theorem Memory.read_write_other (m : Memory) {i j : Nat} (b : Byte) (h : j ≠ i) :
    Memory.read (Memory.write m i b) j = Memory.read m j := by
  induction m with
  | nil => simp [Memory.write, Memory.read, h.symm]
  | cons c m ih =>
    obtain ⟨k, x⟩ := c
    simp only [Memory.write]
    split
    · simp [Memory.read, h.symm]
    · split
      · rename_i h1 h2
        subst h2
        simp [Memory.read, h.symm]
      · simp [Memory.read, ih]

/-- What a byte reads as after a run of bytes was written. -/
theorem Memory.read_writeAll (m : Memory) (i : Nat) (bs : List Byte) (j : Nat) :
    Memory.read (Memory.writeAll m i bs) j
      = if i ≤ j ∧ j < i + bs.length then bs[j - i]? else Memory.read m j := by
  induction bs generalizing m i with
  | nil => simp [Memory.writeAll]
  | cons b bs ih =>
    simp only [Memory.writeAll, ih, List.length_cons]
    by_cases hj : j = i
    · subst hj
      simp
    · rw [Memory.read_write_other _ _ hj]
      by_cases h : i + 1 ≤ j ∧ j < i + 1 + bs.length
      · rw [if_pos h, if_pos (by omega), show j - i = (j - (i + 1)) + 1 by omega, List.getElem?_cons_succ]
      · rw [if_neg h, if_neg (by omega)]

theorem Memory.read_writeAll_inside (m : Memory) (i : Nat) (bs : List Byte) {j : Nat} (h : j < bs.length) :
    Memory.read (Memory.writeAll m i bs) (i + j) = bs[j]? := by
  rw [Memory.read_writeAll, if_pos (by omega), Nat.add_sub_cancel_left]

theorem Memory.read_writeAll_zero (m : Memory) (bs : List Byte) {j : Nat} (h : j < bs.length) :
    Memory.read (Memory.writeAll m 0 bs) j = bs[j]? := by
  simpa using Memory.read_writeAll_inside m 0 bs h

theorem Memory.read_writeAll_outside (m : Memory) (i : Nat) (bs : List Byte) {j : Nat}
    (h : j < i ∨ i + bs.length ≤ j) : Memory.read (Memory.writeAll m i bs) j = Memory.read m j := by
  rw [Memory.read_writeAll, if_neg (by omega)]

/-- A buffer that holds exactly the bytes `bs` from index 0. -/
theorem Memory.read_writeAll_nil (bs : List Byte) (j : Nat) :
    Memory.read (Memory.writeAll [] 0 bs) j = bs[j]? := by
  rw [Memory.read_writeAll]
  split
  · simp
  · rename_i h
    rw [List.getElem?_eq_none (by omega), Memory.read_nil]

theorem Memory.mem_write {m : Memory} {i : Nat} {b : Byte} {c : Host.Cell} (h : c ∈ Memory.write m i b) :
    c = (i, b) ∨ c ∈ m := by
  induction m with
  | nil => simpa [Memory.write] using h
  | cons d m ih =>
    obtain ⟨k, x⟩ := d
    simp only [Memory.write] at h
    split at h
    · simpa using h
    · split at h
      · simp only [List.mem_cons] at h ⊢
        tauto
      · simp only [List.mem_cons] at h ⊢
        rcases h with h | h
        · exact .inr (.inl h)
        · rcases ih h with h | h
          · exact .inl h
          · exact .inr (.inr h)

/-- A write keeps the canonical form. -/
theorem Memory.write_wf {m : Memory} (h : Memory.wf m) (i : Nat) (b : Byte) : Memory.wf (Memory.write m i b) := by
  induction m with
  | nil => simp [Memory.write]
  | cons c m ih =>
    obtain ⟨k, x⟩ := c
    obtain ⟨hk, hm⟩ := List.pairwise_cons.mp h
    simp only [Memory.write]
    split
    · rename_i hi
      refine List.pairwise_cons.mpr ⟨fun d hd => ?_, h⟩
      rcases List.mem_cons.mp hd with rfl | hd
      · exact hi
      · exact Nat.lt_trans hi (hk d hd)
    · split
      · rename_i hi
        subst hi
        exact List.pairwise_cons.mpr ⟨hk, hm⟩
      · rename_i h1 h2
        refine List.pairwise_cons.mpr ⟨fun d hd => ?_, ih hm⟩
        rcases Memory.mem_write hd with rfl | hd
        · show k < i
          omega
        · exact hk d hd

/-- A run of writes keeps the canonical form. -/
theorem Memory.writeAll_wf {m : Memory} (h : Memory.wf m) (i : Nat) (bs : List Byte) :
    Memory.wf (Memory.writeAll m i bs) := by
  induction bs generalizing m i with
  | nil => exact h
  | cons b bs ih => exact ih (Memory.write_wf h i b) (i + 1)

/-- The indices of a run of writes: those there were, and those written. -/
theorem Memory.writeAll_below {m : Memory} {n : Nat} (h : ∀ c ∈ m, c.1 < n) {i : Nat} {bs : List Byte}
    (hi : i + bs.length ≤ n) : ∀ c ∈ Memory.writeAll m i bs, c.1 < n := by
  induction bs generalizing m i with
  | nil => exact h
  | cons b bs ih =>
    simp only [List.length_cons] at hi
    refine ih (fun c hc => ?_) (by omega)
    rcases Memory.mem_write hc with rfl | hc
    · show i < n
      omega
    · exact h c hc

end Sys2Proof.Machine
end

