-- ==== Sys2Proof/Laws/State.lean ====
section
/-! SUPPORT. What each named update of State does to each field, true by unfolding, so that no later proof unfolds a record update. -/

namespace Sys2Proof.Machine

/-! ## `draw` -/

@[simp] theorem draw_cfg (s : State) : (draw s).2.cfg = s.cfg := rfl
@[simp] theorem draw_busy (s : State) : (draw s).2.busy = s.busy := rfl
@[simp] theorem draw_done (s : State) : (draw s).2.done = s.done := rfl
@[simp] theorem draw_mode (s : State) : (draw s).2.mode = s.mode := rfl
@[simp] theorem draw_overrun (s : State) : (draw s).2.overrun = s.overrun := rfl
@[simp] theorem draw_nonhex (s : State) : (draw s).2.nonhex = s.nonhex := rfl
@[simp] theorem draw_buserr (s : State) : (draw s).2.buserr = s.buserr := rfl
@[simp] theorem draw_outcome (s : State) : (draw s).2.outcome = s.outcome := rfl
@[simp] theorem draw_result (s : State) : (draw s).2.result = s.result := rfl
@[simp] theorem draw_rxlen (s : State) : (draw s).2.rxlen = s.rxlen := rfl
@[simp] theorem draw_rc (s : State) : (draw s).2.rc = s.rc := rfl
@[simp] theorem draw_adr (s : State) : (draw s).2.adr = s.adr := rfl
@[simp] theorem draw_ver (s : State) : (draw s).2.ver = s.ver := rfl
@[simp] theorem draw_phase (s : State) : (draw s).2.phase = s.phase := rfl
@[simp] theorem draw_cid (s : State) : (draw s).2.cid = s.cid := rfl
@[simp] theorem draw_pllen (s : State) : (draw s).2.pllen = s.pllen := rfl
@[simp] theorem draw_txlen (s : State) : (draw s).2.txlen = s.txlen := rfl
@[simp] theorem draw_strlen (s : State) : (draw s).2.strlen = s.strlen := rfl
@[simp] theorem draw_dataflag (s : State) : (draw s).2.dataflag = s.dataflag := rfl
@[simp] theorem draw_attempts (s : State) : (draw s).2.attempts = s.attempts := rfl
@[simp] theorem draw_pending (s : State) : (draw s).2.pending = s.pending := rfl
@[simp] theorem draw_tx (s : State) : (draw s).2.tx = s.tx := rfl
@[simp] theorem draw_rx (s : State) : (draw s).2.rx = s.rx := rfl
@[simp] theorem draw_pl (s : State) : (draw s).2.pl = s.pl := rfl
@[simp] theorem draw_str (s : State) : (draw s).2.str = s.str := rfl
@[simp] theorem draw_store (s : State) : (draw s).2.store = s.store := rfl
@[simp] theorem draw_transport (s : State) : (draw s).2.transport = s.transport := rfl
@[simp] theorem draw_log (s : State) : (draw s).2.log = s.log := rfl
@[simp] theorem draw_turns (s : State) : (draw s).2.turns = s.turns := rfl
@[simp] theorem draw_hostData (s : State) : (draw s).2.hostData = s.hostData := rfl
@[simp] theorem draw_draws (s : State) : (draw s).2.draws = s.draws + 1 := rfl

/-! ## `logRec` -/

@[simp] theorem logRec_cfg (c : LogCode) (a : Int) (s : State) : (logRec c a s).cfg = s.cfg := rfl
@[simp] theorem logRec_busy (c : LogCode) (a : Int) (s : State) : (logRec c a s).busy = s.busy := rfl
@[simp] theorem logRec_done (c : LogCode) (a : Int) (s : State) : (logRec c a s).done = s.done := rfl
@[simp] theorem logRec_mode (c : LogCode) (a : Int) (s : State) : (logRec c a s).mode = s.mode := rfl
@[simp] theorem logRec_overrun (c : LogCode) (a : Int) (s : State) : (logRec c a s).overrun = s.overrun := rfl
@[simp] theorem logRec_nonhex (c : LogCode) (a : Int) (s : State) : (logRec c a s).nonhex = s.nonhex := rfl
@[simp] theorem logRec_buserr (c : LogCode) (a : Int) (s : State) : (logRec c a s).buserr = s.buserr := rfl
@[simp] theorem logRec_outcome (c : LogCode) (a : Int) (s : State) : (logRec c a s).outcome = s.outcome := rfl
@[simp] theorem logRec_result (c : LogCode) (a : Int) (s : State) : (logRec c a s).result = s.result := rfl
@[simp] theorem logRec_rxlen (c : LogCode) (a : Int) (s : State) : (logRec c a s).rxlen = s.rxlen := rfl
@[simp] theorem logRec_rc (c : LogCode) (a : Int) (s : State) : (logRec c a s).rc = s.rc := rfl
@[simp] theorem logRec_adr (c : LogCode) (a : Int) (s : State) : (logRec c a s).adr = s.adr := rfl
@[simp] theorem logRec_ver (c : LogCode) (a : Int) (s : State) : (logRec c a s).ver = s.ver := rfl
@[simp] theorem logRec_phase (c : LogCode) (a : Int) (s : State) : (logRec c a s).phase = s.phase := rfl
@[simp] theorem logRec_cid (c : LogCode) (a : Int) (s : State) : (logRec c a s).cid = s.cid := rfl
@[simp] theorem logRec_pllen (c : LogCode) (a : Int) (s : State) : (logRec c a s).pllen = s.pllen := rfl
@[simp] theorem logRec_txlen (c : LogCode) (a : Int) (s : State) : (logRec c a s).txlen = s.txlen := rfl
@[simp] theorem logRec_strlen (c : LogCode) (a : Int) (s : State) : (logRec c a s).strlen = s.strlen := rfl
@[simp] theorem logRec_dataflag (c : LogCode) (a : Int) (s : State) : (logRec c a s).dataflag = s.dataflag := rfl
@[simp] theorem logRec_attempts (c : LogCode) (a : Int) (s : State) : (logRec c a s).attempts = s.attempts := rfl
@[simp] theorem logRec_pending (c : LogCode) (a : Int) (s : State) : (logRec c a s).pending = s.pending := rfl
@[simp] theorem logRec_tx (c : LogCode) (a : Int) (s : State) : (logRec c a s).tx = s.tx := rfl
@[simp] theorem logRec_rx (c : LogCode) (a : Int) (s : State) : (logRec c a s).rx = s.rx := rfl
@[simp] theorem logRec_pl (c : LogCode) (a : Int) (s : State) : (logRec c a s).pl = s.pl := rfl
@[simp] theorem logRec_str (c : LogCode) (a : Int) (s : State) : (logRec c a s).str = s.str := rfl
@[simp] theorem logRec_store (c : LogCode) (a : Int) (s : State) : (logRec c a s).store = s.store := rfl
@[simp] theorem logRec_transport (c : LogCode) (a : Int) (s : State) : (logRec c a s).transport = s.transport := rfl
@[simp] theorem logRec_log (c : LogCode) (a : Int) (s : State) : (logRec c a s).log = s.log ++ [{ code := c, arg := a }] := rfl
@[simp] theorem logRec_turns (c : LogCode) (a : Int) (s : State) : (logRec c a s).turns = s.turns := rfl
@[simp] theorem logRec_hostData (c : LogCode) (a : Int) (s : State) : (logRec c a s).hostData = s.hostData := rfl
@[simp] theorem logRec_draws (c : LogCode) (a : Int) (s : State) : (logRec c a s).draws = s.draws := rfl

/-! ## `emit` -/

@[simp] theorem emit_cfg (e : StoreEvent) (s : State) : (emit e s).cfg = s.cfg := rfl
@[simp] theorem emit_busy (e : StoreEvent) (s : State) : (emit e s).busy = s.busy := rfl
@[simp] theorem emit_done (e : StoreEvent) (s : State) : (emit e s).done = s.done := rfl
@[simp] theorem emit_mode (e : StoreEvent) (s : State) : (emit e s).mode = s.mode := rfl
@[simp] theorem emit_overrun (e : StoreEvent) (s : State) : (emit e s).overrun = s.overrun := rfl
@[simp] theorem emit_nonhex (e : StoreEvent) (s : State) : (emit e s).nonhex = s.nonhex := rfl
@[simp] theorem emit_buserr (e : StoreEvent) (s : State) : (emit e s).buserr = s.buserr := rfl
@[simp] theorem emit_outcome (e : StoreEvent) (s : State) : (emit e s).outcome = s.outcome := rfl
@[simp] theorem emit_result (e : StoreEvent) (s : State) : (emit e s).result = s.result := rfl
@[simp] theorem emit_rxlen (e : StoreEvent) (s : State) : (emit e s).rxlen = s.rxlen := rfl
@[simp] theorem emit_rc (e : StoreEvent) (s : State) : (emit e s).rc = s.rc := rfl
@[simp] theorem emit_adr (e : StoreEvent) (s : State) : (emit e s).adr = s.adr := rfl
@[simp] theorem emit_ver (e : StoreEvent) (s : State) : (emit e s).ver = s.ver := rfl
@[simp] theorem emit_phase (e : StoreEvent) (s : State) : (emit e s).phase = s.phase := rfl
@[simp] theorem emit_cid (e : StoreEvent) (s : State) : (emit e s).cid = s.cid := rfl
@[simp] theorem emit_pllen (e : StoreEvent) (s : State) : (emit e s).pllen = s.pllen := rfl
@[simp] theorem emit_txlen (e : StoreEvent) (s : State) : (emit e s).txlen = s.txlen := rfl
@[simp] theorem emit_strlen (e : StoreEvent) (s : State) : (emit e s).strlen = s.strlen := rfl
@[simp] theorem emit_dataflag (e : StoreEvent) (s : State) : (emit e s).dataflag = s.dataflag := rfl
@[simp] theorem emit_attempts (e : StoreEvent) (s : State) : (emit e s).attempts = s.attempts := rfl
@[simp] theorem emit_pending (e : StoreEvent) (s : State) : (emit e s).pending = s.pending := rfl
@[simp] theorem emit_tx (e : StoreEvent) (s : State) : (emit e s).tx = s.tx := rfl
@[simp] theorem emit_rx (e : StoreEvent) (s : State) : (emit e s).rx = s.rx := rfl
@[simp] theorem emit_pl (e : StoreEvent) (s : State) : (emit e s).pl = s.pl := rfl
@[simp] theorem emit_str (e : StoreEvent) (s : State) : (emit e s).str = s.str := rfl
@[simp] theorem emit_store (e : StoreEvent) (s : State) : (emit e s).store = Store.apply e s.store := rfl
@[simp] theorem emit_transport (e : StoreEvent) (s : State) : (emit e s).transport = s.transport := rfl
@[simp] theorem emit_log (e : StoreEvent) (s : State) : (emit e s).log = s.log := rfl
@[simp] theorem emit_turns (e : StoreEvent) (s : State) : (emit e s).turns = s.turns := rfl
@[simp] theorem emit_hostData (e : StoreEvent) (s : State) : (emit e s).hostData = s.hostData := rfl
@[simp] theorem emit_draws (e : StoreEvent) (s : State) : (emit e s).draws = s.draws := rfl

/-! ## `request` -/

@[simp] theorem request_cfg (r : WireRequest) (s : State) : (request r s).cfg = s.cfg := rfl
@[simp] theorem request_busy (r : WireRequest) (s : State) : (request r s).busy = s.busy := rfl
@[simp] theorem request_done (r : WireRequest) (s : State) : (request r s).done = s.done := rfl
@[simp] theorem request_mode (r : WireRequest) (s : State) : (request r s).mode = s.mode := rfl
@[simp] theorem request_overrun (r : WireRequest) (s : State) : (request r s).overrun = s.overrun := rfl
@[simp] theorem request_nonhex (r : WireRequest) (s : State) : (request r s).nonhex = s.nonhex := rfl
@[simp] theorem request_buserr (r : WireRequest) (s : State) : (request r s).buserr = s.buserr := rfl
@[simp] theorem request_outcome (r : WireRequest) (s : State) : (request r s).outcome = s.outcome := rfl
@[simp] theorem request_result (r : WireRequest) (s : State) : (request r s).result = s.result := rfl
@[simp] theorem request_rxlen (r : WireRequest) (s : State) : (request r s).rxlen = s.rxlen := rfl
@[simp] theorem request_rc (r : WireRequest) (s : State) : (request r s).rc = s.rc := rfl
@[simp] theorem request_adr (r : WireRequest) (s : State) : (request r s).adr = s.adr := rfl
@[simp] theorem request_ver (r : WireRequest) (s : State) : (request r s).ver = s.ver := rfl
@[simp] theorem request_phase (r : WireRequest) (s : State) : (request r s).phase = s.phase := rfl
@[simp] theorem request_cid (r : WireRequest) (s : State) : (request r s).cid = s.cid := rfl
@[simp] theorem request_pllen (r : WireRequest) (s : State) : (request r s).pllen = s.pllen := rfl
@[simp] theorem request_txlen (r : WireRequest) (s : State) : (request r s).txlen = s.txlen := rfl
@[simp] theorem request_strlen (r : WireRequest) (s : State) : (request r s).strlen = s.strlen := rfl
@[simp] theorem request_dataflag (r : WireRequest) (s : State) : (request r s).dataflag = s.dataflag := rfl
@[simp] theorem request_attempts (r : WireRequest) (s : State) : (request r s).attempts = s.attempts := rfl
@[simp] theorem request_pending (r : WireRequest) (s : State) : (request r s).pending = s.pending := rfl
@[simp] theorem request_tx (r : WireRequest) (s : State) : (request r s).tx = s.tx := rfl
@[simp] theorem request_rx (r : WireRequest) (s : State) : (request r s).rx = s.rx := rfl
@[simp] theorem request_pl (r : WireRequest) (s : State) : (request r s).pl = s.pl := rfl
@[simp] theorem request_str (r : WireRequest) (s : State) : (request r s).str = s.str := rfl
@[simp] theorem request_store (r : WireRequest) (s : State) : (request r s).store = s.store := rfl
@[simp] theorem request_transport (r : WireRequest) (s : State) : (request r s).transport = { s.transport with requests := s.transport.requests ++ [r] } := rfl
@[simp] theorem request_log (r : WireRequest) (s : State) : (request r s).log = s.log := rfl
@[simp] theorem request_turns (r : WireRequest) (s : State) : (request r s).turns = s.turns := rfl
@[simp] theorem request_hostData (r : WireRequest) (s : State) : (request r s).hostData = s.hostData := rfl
@[simp] theorem request_draws (r : WireRequest) (s : State) : (request r s).draws = s.draws := rfl

/-! ## `finish` -/

@[simp] theorem finish_cfg (o : OutcomeCode) (s : State) : (finish o s).cfg = s.cfg := rfl
@[simp] theorem finish_busy (o : OutcomeCode) (s : State) : (finish o s).busy = false := rfl
@[simp] theorem finish_done (o : OutcomeCode) (s : State) : (finish o s).done = true := rfl
@[simp] theorem finish_mode (o : OutcomeCode) (s : State) : (finish o s).mode = s.mode := rfl
@[simp] theorem finish_overrun (o : OutcomeCode) (s : State) : (finish o s).overrun = s.overrun := rfl
@[simp] theorem finish_nonhex (o : OutcomeCode) (s : State) : (finish o s).nonhex = s.nonhex := rfl
@[simp] theorem finish_buserr (o : OutcomeCode) (s : State) : (finish o s).buserr = s.buserr := rfl
@[simp] theorem finish_outcome (o : OutcomeCode) (s : State) : (finish o s).outcome = o := rfl
@[simp] theorem finish_result (o : OutcomeCode) (s : State) : (finish o s).result = s.result := rfl
@[simp] theorem finish_rxlen (o : OutcomeCode) (s : State) : (finish o s).rxlen = s.rxlen := rfl
@[simp] theorem finish_rc (o : OutcomeCode) (s : State) : (finish o s).rc = s.rc := rfl
@[simp] theorem finish_adr (o : OutcomeCode) (s : State) : (finish o s).adr = s.adr := rfl
@[simp] theorem finish_ver (o : OutcomeCode) (s : State) : (finish o s).ver = s.ver := rfl
@[simp] theorem finish_phase (o : OutcomeCode) (s : State) : (finish o s).phase = s.phase := rfl
@[simp] theorem finish_cid (o : OutcomeCode) (s : State) : (finish o s).cid = s.cid := rfl
@[simp] theorem finish_pllen (o : OutcomeCode) (s : State) : (finish o s).pllen = s.pllen := rfl
@[simp] theorem finish_txlen (o : OutcomeCode) (s : State) : (finish o s).txlen = s.txlen := rfl
@[simp] theorem finish_strlen (o : OutcomeCode) (s : State) : (finish o s).strlen = s.strlen := rfl
@[simp] theorem finish_dataflag (o : OutcomeCode) (s : State) : (finish o s).dataflag = s.dataflag := rfl
@[simp] theorem finish_attempts (o : OutcomeCode) (s : State) : (finish o s).attempts = s.attempts := rfl
@[simp] theorem finish_pending (o : OutcomeCode) (s : State) : (finish o s).pending = s.pending := rfl
@[simp] theorem finish_tx (o : OutcomeCode) (s : State) : (finish o s).tx = s.tx := rfl
@[simp] theorem finish_rx (o : OutcomeCode) (s : State) : (finish o s).rx = s.rx := rfl
@[simp] theorem finish_pl (o : OutcomeCode) (s : State) : (finish o s).pl = s.pl := rfl
@[simp] theorem finish_str (o : OutcomeCode) (s : State) : (finish o s).str = s.str := rfl
@[simp] theorem finish_store (o : OutcomeCode) (s : State) : (finish o s).store = s.store := rfl
@[simp] theorem finish_transport (o : OutcomeCode) (s : State) : (finish o s).transport = s.transport := rfl
@[simp] theorem finish_log (o : OutcomeCode) (s : State) : (finish o s).log = s.log ++ finishRecords o s.pending := rfl
@[simp] theorem finish_turns (o : OutcomeCode) (s : State) : (finish o s).turns = s.turns := rfl
@[simp] theorem finish_hostData (o : OutcomeCode) (s : State) : (finish o s).hostData = s.hostData := rfl
@[simp] theorem finish_draws (o : OutcomeCode) (s : State) : (finish o s).draws = s.draws := rfl

/-! ## `putFrame` -/

@[simp] theorem putFrame_cfg (c p : List Byte) (s : State) : (putFrame c p s).cfg = s.cfg := rfl
@[simp] theorem putFrame_busy (c p : List Byte) (s : State) : (putFrame c p s).busy = s.busy := rfl
@[simp] theorem putFrame_done (c p : List Byte) (s : State) : (putFrame c p s).done = s.done := rfl
@[simp] theorem putFrame_mode (c p : List Byte) (s : State) : (putFrame c p s).mode = s.mode := rfl
@[simp] theorem putFrame_overrun (c p : List Byte) (s : State) : (putFrame c p s).overrun = s.overrun := rfl
@[simp] theorem putFrame_nonhex (c p : List Byte) (s : State) : (putFrame c p s).nonhex = s.nonhex := rfl
@[simp] theorem putFrame_buserr (c p : List Byte) (s : State) : (putFrame c p s).buserr = s.buserr := rfl
@[simp] theorem putFrame_outcome (c p : List Byte) (s : State) : (putFrame c p s).outcome = s.outcome := rfl
@[simp] theorem putFrame_result (c p : List Byte) (s : State) : (putFrame c p s).result = s.result := rfl
@[simp] theorem putFrame_rxlen (c p : List Byte) (s : State) : (putFrame c p s).rxlen = s.rxlen := rfl
@[simp] theorem putFrame_rc (c p : List Byte) (s : State) : (putFrame c p s).rc = s.rc := rfl
@[simp] theorem putFrame_adr (c p : List Byte) (s : State) : (putFrame c p s).adr = s.adr := rfl
@[simp] theorem putFrame_ver (c p : List Byte) (s : State) : (putFrame c p s).ver = s.ver := rfl
@[simp] theorem putFrame_phase (c p : List Byte) (s : State) : (putFrame c p s).phase = s.phase := rfl
@[simp] theorem putFrame_cid (c p : List Byte) (s : State) : (putFrame c p s).cid = s.cid := rfl
@[simp] theorem putFrame_pllen (c p : List Byte) (s : State) : (putFrame c p s).pllen = s.pllen := rfl
@[simp] theorem putFrame_txlen (c p : List Byte) (s : State) : (putFrame c p s).txlen = BitVec.ofNat 8 (18 + p.length) := rfl
@[simp] theorem putFrame_strlen (c p : List Byte) (s : State) : (putFrame c p s).strlen = s.strlen := rfl
@[simp] theorem putFrame_dataflag (c p : List Byte) (s : State) : (putFrame c p s).dataflag = s.dataflag := rfl
@[simp] theorem putFrame_attempts (c p : List Byte) (s : State) : (putFrame c p s).attempts = s.attempts := rfl
@[simp] theorem putFrame_pending (c p : List Byte) (s : State) : (putFrame c p s).pending = s.pending := rfl
@[simp] theorem putFrame_tx (c p : List Byte) (s : State) : (putFrame c p s).tx = Memory.writeAll s.tx 0 (buildFrame s.cfg c (chars2 s.ver) (chars2 s.adr) p) := rfl
@[simp] theorem putFrame_rx (c p : List Byte) (s : State) : (putFrame c p s).rx = s.rx := rfl
@[simp] theorem putFrame_pl (c p : List Byte) (s : State) : (putFrame c p s).pl = s.pl := rfl
@[simp] theorem putFrame_str (c p : List Byte) (s : State) : (putFrame c p s).str = s.str := rfl
@[simp] theorem putFrame_store (c p : List Byte) (s : State) : (putFrame c p s).store = s.store := rfl
@[simp] theorem putFrame_transport (c p : List Byte) (s : State) : (putFrame c p s).transport = s.transport := rfl
@[simp] theorem putFrame_log (c p : List Byte) (s : State) : (putFrame c p s).log = s.log := rfl
@[simp] theorem putFrame_turns (c p : List Byte) (s : State) : (putFrame c p s).turns = s.turns := rfl
@[simp] theorem putFrame_hostData (c p : List Byte) (s : State) : (putFrame c p s).hostData = s.hostData := rfl
@[simp] theorem putFrame_draws (c p : List Byte) (s : State) : (putFrame c p s).draws = s.draws := rfl

/-! ## `failExchange` -/

@[simp] theorem failExchange_cfg (code : LogCode) (arg : Int) (n : BitVec 16) (s : State) : (failExchange code arg n s).cfg = s.cfg := rfl
@[simp] theorem failExchange_busy (code : LogCode) (arg : Int) (n : BitVec 16) (s : State) : (failExchange code arg n s).busy = s.busy := rfl
@[simp] theorem failExchange_done (code : LogCode) (arg : Int) (n : BitVec 16) (s : State) : (failExchange code arg n s).done = s.done := rfl
@[simp] theorem failExchange_mode (code : LogCode) (arg : Int) (n : BitVec 16) (s : State) : (failExchange code arg n s).mode = s.mode := rfl
@[simp] theorem failExchange_overrun (code : LogCode) (arg : Int) (n : BitVec 16) (s : State) : (failExchange code arg n s).overrun = s.overrun := rfl
@[simp] theorem failExchange_nonhex (code : LogCode) (arg : Int) (n : BitVec 16) (s : State) : (failExchange code arg n s).nonhex = s.nonhex := rfl
@[simp] theorem failExchange_buserr (code : LogCode) (arg : Int) (n : BitVec 16) (s : State) : (failExchange code arg n s).buserr = s.buserr := rfl
@[simp] theorem failExchange_outcome (code : LogCode) (arg : Int) (n : BitVec 16) (s : State) : (failExchange code arg n s).outcome = s.outcome := rfl
@[simp] theorem failExchange_result (code : LogCode) (arg : Int) (n : BitVec 16) (s : State) : (failExchange code arg n s).result = s.result := rfl
@[simp] theorem failExchange_rxlen (code : LogCode) (arg : Int) (n : BitVec 16) (s : State) : (failExchange code arg n s).rxlen = n := rfl
@[simp] theorem failExchange_rc (code : LogCode) (arg : Int) (n : BitVec 16) (s : State) : (failExchange code arg n s).rc = s.rc := rfl
@[simp] theorem failExchange_adr (code : LogCode) (arg : Int) (n : BitVec 16) (s : State) : (failExchange code arg n s).adr = s.adr := rfl
@[simp] theorem failExchange_ver (code : LogCode) (arg : Int) (n : BitVec 16) (s : State) : (failExchange code arg n s).ver = s.ver := rfl
@[simp] theorem failExchange_phase (code : LogCode) (arg : Int) (n : BitVec 16) (s : State) : (failExchange code arg n s).phase = s.phase := rfl
@[simp] theorem failExchange_cid (code : LogCode) (arg : Int) (n : BitVec 16) (s : State) : (failExchange code arg n s).cid = s.cid := rfl
@[simp] theorem failExchange_pllen (code : LogCode) (arg : Int) (n : BitVec 16) (s : State) : (failExchange code arg n s).pllen = s.pllen := rfl
@[simp] theorem failExchange_txlen (code : LogCode) (arg : Int) (n : BitVec 16) (s : State) : (failExchange code arg n s).txlen = s.txlen := rfl
@[simp] theorem failExchange_strlen (code : LogCode) (arg : Int) (n : BitVec 16) (s : State) : (failExchange code arg n s).strlen = s.strlen := rfl
@[simp] theorem failExchange_dataflag (code : LogCode) (arg : Int) (n : BitVec 16) (s : State) : (failExchange code arg n s).dataflag = s.dataflag := rfl
@[simp] theorem failExchange_attempts (code : LogCode) (arg : Int) (n : BitVec 16) (s : State) : (failExchange code arg n s).attempts = s.attempts := rfl
@[simp] theorem failExchange_pending (code : LogCode) (arg : Int) (n : BitVec 16) (s : State) : (failExchange code arg n s).pending = s.pending := rfl
@[simp] theorem failExchange_tx (code : LogCode) (arg : Int) (n : BitVec 16) (s : State) : (failExchange code arg n s).tx = s.tx := rfl
@[simp] theorem failExchange_rx (code : LogCode) (arg : Int) (n : BitVec 16) (s : State) : (failExchange code arg n s).rx = [] := rfl
@[simp] theorem failExchange_pl (code : LogCode) (arg : Int) (n : BitVec 16) (s : State) : (failExchange code arg n s).pl = s.pl := rfl
@[simp] theorem failExchange_str (code : LogCode) (arg : Int) (n : BitVec 16) (s : State) : (failExchange code arg n s).str = s.str := rfl
@[simp] theorem failExchange_store (code : LogCode) (arg : Int) (n : BitVec 16) (s : State) : (failExchange code arg n s).store = s.store := rfl
@[simp] theorem failExchange_transport (code : LogCode) (arg : Int) (n : BitVec 16) (s : State) : (failExchange code arg n s).transport = s.transport := rfl
@[simp] theorem failExchange_log (code : LogCode) (arg : Int) (n : BitVec 16) (s : State) : (failExchange code arg n s).log = s.log ++ [{ code := code, arg := arg }] := rfl
@[simp] theorem failExchange_turns (code : LogCode) (arg : Int) (n : BitVec 16) (s : State) : (failExchange code arg n s).turns = s.turns := rfl
@[simp] theorem failExchange_hostData (code : LogCode) (arg : Int) (n : BitVec 16) (s : State) : (failExchange code arg n s).hostData = s.hostData := rfl
@[simp] theorem failExchange_draws (code : LogCode) (arg : Int) (n : BitVec 16) (s : State) : (failExchange code arg n s).draws = s.draws := rfl

/-! ## `issue` -/

@[simp] theorem issue_cfg (w : Word) (s : State) : (issue w s).cfg = s.cfg := rfl
@[simp] theorem issue_busy (w : Word) (s : State) : (issue w s).busy = true := rfl
@[simp] theorem issue_done (w : Word) (s : State) : (issue w s).done = false := rfl
@[simp] theorem issue_mode (w : Word) (s : State) : (issue w s).mode = s.mode := rfl
@[simp] theorem issue_overrun (w : Word) (s : State) : (issue w s).overrun = s.overrun := rfl
@[simp] theorem issue_nonhex (w : Word) (s : State) : (issue w s).nonhex = s.nonhex := rfl
@[simp] theorem issue_buserr (w : Word) (s : State) : (issue w s).buserr = s.buserr := rfl
@[simp] theorem issue_outcome (w : Word) (s : State) : (issue w s).outcome = s.outcome := rfl
@[simp] theorem issue_result (w : Word) (s : State) : (issue w s).result = s.result := rfl
@[simp] theorem issue_rxlen (w : Word) (s : State) : (issue w s).rxlen = s.rxlen := rfl
@[simp] theorem issue_rc (w : Word) (s : State) : (issue w s).rc = s.rc := rfl
@[simp] theorem issue_adr (w : Word) (s : State) : (issue w s).adr = s.adr := rfl
@[simp] theorem issue_ver (w : Word) (s : State) : (issue w s).ver = s.ver := rfl
@[simp] theorem issue_phase (w : Word) (s : State) : (issue w s).phase = s.phase := rfl
@[simp] theorem issue_cid (w : Word) (s : State) : (issue w s).cid = s.cid := rfl
@[simp] theorem issue_pllen (w : Word) (s : State) : (issue w s).pllen = s.pllen := rfl
@[simp] theorem issue_txlen (w : Word) (s : State) : (issue w s).txlen = s.txlen := rfl
@[simp] theorem issue_strlen (w : Word) (s : State) : (issue w s).strlen = s.strlen := rfl
@[simp] theorem issue_dataflag (w : Word) (s : State) : (issue w s).dataflag = s.dataflag := rfl
@[simp] theorem issue_attempts (w : Word) (s : State) : (issue w s).attempts = s.attempts := rfl
@[simp] theorem issue_pending (w : Word) (s : State) : (issue w s).pending = w := rfl
@[simp] theorem issue_tx (w : Word) (s : State) : (issue w s).tx = s.tx := rfl
@[simp] theorem issue_rx (w : Word) (s : State) : (issue w s).rx = s.rx := rfl
@[simp] theorem issue_pl (w : Word) (s : State) : (issue w s).pl = s.pl := rfl
@[simp] theorem issue_str (w : Word) (s : State) : (issue w s).str = s.str := rfl
@[simp] theorem issue_store (w : Word) (s : State) : (issue w s).store = s.store := rfl
@[simp] theorem issue_transport (w : Word) (s : State) : (issue w s).transport = s.transport := rfl
@[simp] theorem issue_log (w : Word) (s : State) : (issue w s).log = s.log := rfl
@[simp] theorem issue_turns (w : Word) (s : State) : (issue w s).turns = s.turns := rfl
@[simp] theorem issue_hostData (w : Word) (s : State) : (issue w s).hostData = s.hostData := rfl
@[simp] theorem issue_draws (w : Word) (s : State) : (issue w s).draws = s.draws := rfl

/-! ## `clearSticky` -/

@[simp] theorem clearSticky_cfg (v : Word) (s : State) : (clearSticky v s).cfg = s.cfg := rfl
@[simp] theorem clearSticky_busy (v : Word) (s : State) : (clearSticky v s).busy = s.busy := rfl
@[simp] theorem clearSticky_done (v : Word) (s : State) : (clearSticky v s).done = s.done := rfl
@[simp] theorem clearSticky_mode (v : Word) (s : State) : (clearSticky v s).mode = s.mode := rfl
@[simp] theorem clearSticky_overrun (v : Word) (s : State) : (clearSticky v s).overrun = (s.overrun && !v.getLsbD 4) := rfl
@[simp] theorem clearSticky_nonhex (v : Word) (s : State) : (clearSticky v s).nonhex = (s.nonhex && !v.getLsbD 5) := rfl
@[simp] theorem clearSticky_buserr (v : Word) (s : State) : (clearSticky v s).buserr = (s.buserr && !v.getLsbD 6) := rfl
@[simp] theorem clearSticky_outcome (v : Word) (s : State) : (clearSticky v s).outcome = s.outcome := rfl
@[simp] theorem clearSticky_result (v : Word) (s : State) : (clearSticky v s).result = s.result := rfl
@[simp] theorem clearSticky_rxlen (v : Word) (s : State) : (clearSticky v s).rxlen = s.rxlen := rfl
@[simp] theorem clearSticky_rc (v : Word) (s : State) : (clearSticky v s).rc = s.rc := rfl
@[simp] theorem clearSticky_adr (v : Word) (s : State) : (clearSticky v s).adr = s.adr := rfl
@[simp] theorem clearSticky_ver (v : Word) (s : State) : (clearSticky v s).ver = s.ver := rfl
@[simp] theorem clearSticky_phase (v : Word) (s : State) : (clearSticky v s).phase = s.phase := rfl
@[simp] theorem clearSticky_cid (v : Word) (s : State) : (clearSticky v s).cid = s.cid := rfl
@[simp] theorem clearSticky_pllen (v : Word) (s : State) : (clearSticky v s).pllen = s.pllen := rfl
@[simp] theorem clearSticky_txlen (v : Word) (s : State) : (clearSticky v s).txlen = s.txlen := rfl
@[simp] theorem clearSticky_strlen (v : Word) (s : State) : (clearSticky v s).strlen = s.strlen := rfl
@[simp] theorem clearSticky_dataflag (v : Word) (s : State) : (clearSticky v s).dataflag = s.dataflag := rfl
@[simp] theorem clearSticky_attempts (v : Word) (s : State) : (clearSticky v s).attempts = s.attempts := rfl
@[simp] theorem clearSticky_pending (v : Word) (s : State) : (clearSticky v s).pending = s.pending := rfl
@[simp] theorem clearSticky_tx (v : Word) (s : State) : (clearSticky v s).tx = s.tx := rfl
@[simp] theorem clearSticky_rx (v : Word) (s : State) : (clearSticky v s).rx = s.rx := rfl
@[simp] theorem clearSticky_pl (v : Word) (s : State) : (clearSticky v s).pl = s.pl := rfl
@[simp] theorem clearSticky_str (v : Word) (s : State) : (clearSticky v s).str = s.str := rfl
@[simp] theorem clearSticky_store (v : Word) (s : State) : (clearSticky v s).store = s.store := rfl
@[simp] theorem clearSticky_transport (v : Word) (s : State) : (clearSticky v s).transport = s.transport := rfl
@[simp] theorem clearSticky_log (v : Word) (s : State) : (clearSticky v s).log = s.log := rfl
@[simp] theorem clearSticky_turns (v : Word) (s : State) : (clearSticky v s).turns = s.turns := rfl
@[simp] theorem clearSticky_hostData (v : Word) (s : State) : (clearSticky v s).hostData = s.hostData := rfl
@[simp] theorem clearSticky_draws (v : Word) (s : State) : (clearSticky v s).draws = s.draws := rfl

/-! ## `blockReset` -/

@[simp] theorem blockReset_cfg (s : State) : (blockReset s).cfg = s.cfg := rfl
@[simp] theorem blockReset_busy (s : State) : (blockReset s).busy = false := rfl
@[simp] theorem blockReset_done (s : State) : (blockReset s).done = false := rfl
@[simp] theorem blockReset_mode (s : State) : (blockReset s).mode = .uninit := rfl
@[simp] theorem blockReset_overrun (s : State) : (blockReset s).overrun = false := rfl
@[simp] theorem blockReset_nonhex (s : State) : (blockReset s).nonhex = false := rfl
@[simp] theorem blockReset_buserr (s : State) : (blockReset s).buserr = false := rfl
@[simp] theorem blockReset_outcome (s : State) : (blockReset s).outcome = .ok := rfl
@[simp] theorem blockReset_result (s : State) : (blockReset s).result = 0 := rfl
@[simp] theorem blockReset_rxlen (s : State) : (blockReset s).rxlen = 0 := rfl
@[simp] theorem blockReset_rc (s : State) : (blockReset s).rc = 0 := rfl
@[simp] theorem blockReset_adr (s : State) : (blockReset s).adr = asciiReg2 s.cfg.addrDefault := rfl
@[simp] theorem blockReset_ver (s : State) : (blockReset s).ver = asciiReg2 s.cfg.protoVer := rfl
@[simp] theorem blockReset_phase (s : State) : (blockReset s).phase = .sysparam := rfl
@[simp] theorem blockReset_cid (s : State) : (blockReset s).cid = 0 := rfl
@[simp] theorem blockReset_pllen (s : State) : (blockReset s).pllen = 0 := rfl
@[simp] theorem blockReset_txlen (s : State) : (blockReset s).txlen = 0 := rfl
@[simp] theorem blockReset_strlen (s : State) : (blockReset s).strlen = 0 := rfl
@[simp] theorem blockReset_dataflag (s : State) : (blockReset s).dataflag = 0 := rfl
@[simp] theorem blockReset_attempts (s : State) : (blockReset s).attempts = 0 := rfl
@[simp] theorem blockReset_pending (s : State) : (blockReset s).pending = 0 := rfl
@[simp] theorem blockReset_tx (s : State) : (blockReset s).tx = [] := rfl
@[simp] theorem blockReset_rx (s : State) : (blockReset s).rx = [] := rfl
@[simp] theorem blockReset_pl (s : State) : (blockReset s).pl = [] := rfl
@[simp] theorem blockReset_str (s : State) : (blockReset s).str = [] := rfl
@[simp] theorem blockReset_store (s : State) : (blockReset s).store = s.store := rfl
@[simp] theorem blockReset_transport (s : State) : (blockReset s).transport = s.transport := rfl
@[simp] theorem blockReset_log (s : State) : (blockReset s).log = s.log := rfl
@[simp] theorem blockReset_turns (s : State) : (blockReset s).turns = s.turns := rfl
@[simp] theorem blockReset_hostData (s : State) : (blockReset s).hostData = s.hostData := rfl
@[simp] theorem blockReset_draws (s : State) : (blockReset s).draws = s.draws := rfl

end Sys2Proof.Machine
end

