-- ==== Sys2Proof/Laws/Ops.lean ====
section
/-! SUPPORT. One lemma per shared operation that says what it can do: which fields it may change, and its value where the spec fixes it. -/

namespace Sys2Proof.Machine

open Sys2Proof.Config

/-! ## Reads of a buffer -/

/-- A read of one byte changes nothing but the counter of free values. -/
theorem readByte_state (b : Buf) (i : Nat) (s : State) : ∃ d, (readByte b i s).2 = { s with draws := d } := by
  unfold readByte
  split
  · exact ⟨s.draws, rfl⟩
  · exact ⟨s.draws + 1, rfl⟩

/-- A byte that was written reads as it was written. -/
theorem readByte_written {b : Buf} {i : Nat} {s : State} {v : Byte} (h : Memory.read (s.buf b) i = some v) :
    readByte b i s = (v, s) := by
  simp [readByte, h]

/-- The counter of free values is no part of a buffer. -/
@[simp] theorem buf_draws (s : State) (d : Nat) (b : Buf) : ({ s with draws := d } : State).buf b = s.buf b := by
  cases b <;> rfl

/-- A run of reads changes nothing but the counter of free values. -/
theorem readBytes_state (b : Buf) (off len : Nat) (s : State) : ∃ d, (readBytes b off len s).2 = { s with draws := d } := by
  induction len generalizing off s with
  | zero => exact ⟨s.draws, rfl⟩
  | succ len ih =>
    obtain ⟨d, hd⟩ := readByte_state b off s
    obtain ⟨e, he⟩ := ih (off + 1) (readByte b off s).2
    exact ⟨e, by simp only [readBytes]; rw [he, hd]⟩

@[simp] theorem readBytes_length (b : Buf) (off len : Nat) (s : State) : (readBytes b off len s).1.length = len := by
  induction len generalizing off s with
  | zero => rfl
  | succ len ih => simp [readBytes, ih]

/-- A run of reads gives, at every index that was written, the byte written there. -/
theorem readBytes_written {b : Buf} {off len i : Nat} {s : State} {v : Byte} (hi : i < len)
    (h : Memory.read (s.buf b) (off + i) = some v) : (readBytes b off len s).1[i]? = some v := by
  induction len generalizing off i s with
  | zero => omega
  | succ len ih =>
    simp only [readBytes]
    cases i with
    | zero => rw [List.getElem?_cons_zero, readByte_written (by simpa using h)]
    | succ i =>
      obtain ⟨d, hd⟩ := readByte_state b off s
      rw [List.getElem?_cons_succ]
      exact ih (by omega) (by rw [hd, buf_draws]; rwa [show off + (i + 1) = off + 1 + i by omega] at h)

/-- A run of reads of bytes that were all written gives them and changes nothing. -/
theorem readBytes_held {b : Buf} {off : Nat} {bs : List Byte} {s : State}
    (h : ∀ i, i < bs.length → Memory.read (s.buf b) (off + i) = bs[i]?) : readBytes b off bs.length s = (bs, s) := by
  induction bs generalizing off with
  | nil => rfl
  | cons c bs ih =>
    have h0 := h 0 (by simp)
    rw [List.getElem?_cons_zero] at h0
    have hrest := ih (off := off + 1) fun i hi => by
      have := h (i + 1) (by simpa using hi)
      rwa [List.getElem?_cons_succ, show off + (i + 1) = off + 1 + i by omega] at this
    simp only [List.length_cons, readBytes]
    rw [readByte_written (by simpa using h0), hrest]

/-! ## The hex decoder -/

/-- Whether hexval meets a character that is not a hex digit (42_hexdecode.md R130). -/
def meetsNonhex (bs : List Byte) : Bool := decide (bs.length ≤ 15) && (parseHex bs).isNone

/-- hexval changes nothing but NONHEX, which it sets exactly where it meets a non-hex character, and the counter of free values. -/
theorem hexval_state (bs : List Byte) (s : State) :
    ∃ d, (hexval bs s).2 = { s with nonhex := s.nonhex || meetsNonhex bs, draws := d } := by
  unfold hexval meetsNonhex
  split
  · rename_i h
    exact ⟨s.draws, by simp [Nat.not_le.mpr h]⟩
  · rename_i h
    split
    · rename_i v hv
      exact ⟨s.draws, by simp [hv]⟩
    · rename_i hv
      exact ⟨s.draws + 1, by simp [hv, Nat.not_lt.mp h, draw]⟩

/-- hexval of at most 15 hex digits is their value and changes nothing. -/
theorem hexval_parsed {bs : List Byte} {v : Nat} (s : State) (hl : bs.length ≤ 15) (h : parseHex bs = some v) :
    hexval bs s = (v, s) := by
  simp [hexval, h, Nat.not_lt.mpr hl]

/-- hexval of a non-hex string is a free value. -/
theorem hexval_free {bs : List Byte} (s : State) (hl : bs.length ≤ 15) (h : parseHex bs = none) :
    hexval bs s = ((freeValue s.draws).toNat, { s with nonhex := true, draws := s.draws + 1 }) := by
  simp [hexval, h, Nat.not_lt.mpr hl, draw]

/-- A field read changes nothing but NONHEX and the counter of free values. -/
theorem readHex_state (off len : Nat) (s : State) :
    ∃ n d, (readHex off len s).2 = { s with nonhex := n, draws := d } := by
  obtain ⟨d, hd⟩ := readBytes_state .rx off len s
  obtain ⟨e, he⟩ := hexval_state (readBytes .rx off len s).1 (readBytes .rx off len s).2
  exact ⟨_, e, by simp only [readHex]; rw [he, hd]⟩

/-- A field of RXBUF whose bytes were all written: its value where they are hex digits, NONHEX exactly where one is not. -/
theorem readHex_held {off : Nat} {bs : List Byte} {s : State}
    (h : ∀ i, i < bs.length → Memory.read s.rx (off + i) = bs[i]?) :
    readHex off bs.length s = hexval bs s := by
  simp [readHex, readBytes_held (b := .rx) (s := s) (by simpa [State.buf] using h)]

theorem readHexByte_state (off : Nat) (s : State) :
    ∃ n d, (readHexByte off s).2 = { s with nonhex := n, draws := d } := readHex_state off 2 s

theorem readHexByte_lt (off : Nat) (s : State) : (readHexByte off s).1 < 256 := Nat.mod_lt _ (by decide)

/-- The pairs loop changes nothing but NONHEX and the counter of free values. -/
theorem decodePairs_state (n : Nat) (bs : List Byte) (s : State) :
    ∃ x d, (decodePairs n bs s).2 = { s with nonhex := x, draws := d } := by
  induction n generalizing bs s with
  | zero => exact ⟨s.nonhex, s.draws, by cases bs <;> rfl⟩
  | succ n ih =>
    match bs with
    | [] => exact ⟨s.nonhex, s.draws, rfl⟩
    | [_] => exact ⟨s.nonhex, s.draws, rfl⟩
    | a :: b :: rest =>
      obtain ⟨d, hd⟩ := hexval_state [a, b] s
      simp only [decodePairs]
      split
      · exact ⟨_, d, hd⟩
      · obtain ⟨x, e, he⟩ := ih rest (hexval [a, b] s).2
        exact ⟨x, e, by rw [he, hd]⟩

theorem decodePairs_length_le (n : Nat) (bs : List Byte) (s : State) : (decodePairs n bs s).1.length ≤ n := by
  induction n generalizing bs s with
  | zero => cases bs <;> simp [decodePairs]
  | succ n ih =>
    match bs with
    | [] => simp [decodePairs]
    | [_] => simp [decodePairs]
    | a :: b :: rest =>
      simp only [decodePairs]
      split
      · simp
      · simpa using ih rest _

/-- strFromHex changes nothing but STRBUF, NONHEX and the counter of free values. -/
theorem strFromHex_state (bs : List Byte) (k cap : Nat) (s : State) :
    ∃ x d, (strFromHex bs k cap s).2
      = { s with str := Memory.writeAll s.str 0 ((strFromHex bs k cap s).1 ++ [0x00]), nonhex := x, draws := d } := by
  obtain ⟨x, d, h⟩ := decodePairs_state (min (k / 2) (cap - 1)) bs s
  exact ⟨x, d, by simp only [strFromHex]; rw [h]⟩

theorem strFromHex_length_le (bs : List Byte) (k cap : Nat) (s : State) :
    (strFromHex bs k cap s).1.length ≤ min (k / 2) (cap - 1) := decodePairs_length_le _ _ _

/-! ## Validation and acceptance -/

/-- What validate can do: it changes nothing but NONHEX, RC, RESULT, the log and the counter of free values. -/
theorem validate_state (m : Nat) (c : Bool) (s : State) :
    ∃ x rc r l d, (validate m c s).2 = { s with nonhex := x, rc := rc, result := r, log := s.log ++ l, draws := d } := by
  obtain ⟨x, d, h⟩ := readHex_state 7 2 s
  unfold validate
  dsimp only
  split
  · exact ⟨s.nonhex, s.rc, s.result, _, s.draws, rfl⟩
  split
  · exact ⟨s.nonhex, s.rc, s.result, _, s.draws, rfl⟩
  split
  · exact ⟨s.nonhex, s.rc, s.result, _, s.draws, rfl⟩
  split
  · exact ⟨s.nonhex, s.rc, _, [], s.draws, by rw [List.append_nil]⟩
  split
  · exact ⟨x, _, _, _, d, by rw [h]; rfl⟩
  · exact ⟨x, _, _, [], d, by rw [h, List.append_nil]⟩

/-- What checkLength can do: it changes nothing but RESULT, the log and the counter of free values. -/
theorem checkLength_state (s : State) :
    ∃ r l d, (checkLength s).2 = { s with result := r, log := s.log ++ l, draws := d } := by
  obtain ⟨d, h⟩ := readBytes_state .rx 9 4 s
  unfold checkLength
  dsimp only
  split
  · exact ⟨s.result, _, s.draws, rfl⟩
  split
  · exact ⟨s.result, _, s.draws, rfl⟩
  split
  · exact ⟨s.result, _, s.draws, rfl⟩
  split
  · exact ⟨s.result, _, d, by rw [h]; rfl⟩
  split
  · exact ⟨_, _, d, by rw [h]; rfl⟩
  · exact ⟨_, [], d, by rw [h, List.append_nil]⟩

/-- What checkSum can do: it changes nothing but RESULT, the log and the counter of free values. -/
theorem checkSum_state (s : State) :
    ∃ r l d, (checkSum s).2 = { s with result := r, log := s.log ++ l, draws := d } := by
  obtain ⟨r, l, d, h⟩ := checkLength_state s
  unfold checkSum
  dsimp only
  split
  · exact ⟨r, l, d, h⟩
  split
  · exact ⟨r, l ++ _, d, by rw [h, ← List.append_assoc]; rfl⟩
  split
  · exact ⟨r, l ++ _, d, by rw [h, ← List.append_assoc]; rfl⟩
  obtain ⟨e, he⟩ := readBytes_state .rx 1 (12 + (checkLength s).2.result.toNat) (checkLength s).2
  obtain ⟨g, hg⟩ := readBytes_state .rx (13 + (checkLength s).2.result.toNat) 4
    (readBytes .rx 1 (12 + (checkLength s).2.result.toNat) (checkLength s).2).2
  split
  · exact ⟨r, l ++ _, g, by rw [hg, he, h, ← List.append_assoc]; rfl⟩
  split
  · exact ⟨_, l ++ _, g, by rw [hg, he, h, ← List.append_assoc]; rfl⟩
  · exact ⟨_, l, g, by rw [hg, he, h]⟩

/-- What accept can do: it changes nothing but NONHEX, RC, RESULT, the log and the counter of free values. -/
theorem accept_state (m : Nat) (c : Bool) (s : State) :
    ∃ x rc r l d, (accept m c s).2 = { s with nonhex := x, rc := rc, result := r, log := s.log ++ l, draws := d } := by
  obtain ⟨x, rc, r, l, d, h⟩ := validate_state m c s
  obtain ⟨r', l', d', h'⟩ := checkSum_state (validate m c s).2
  unfold accept
  dsimp only
  split
  · split
    · exact ⟨x, rc, _, l ++ l', d', by rw [h', h, ← List.append_assoc]⟩
    · exact ⟨x, rc, r', l ++ l', d', by rw [h', h, ← List.append_assoc]⟩
  · exact ⟨x, rc, r, l, d, h⟩

/-- Without VERIFY_RX, accept is validate (41_codec.md R118). -/
theorem accept_eq_validate {s : State} (h : s.cfg.verifyRx = false) (m : Nat) (c : Bool) : accept m c s = validate m c s := by
  simp [accept, h]

/-- An accepted reply: it is no shorter than the minimum. -/
theorem validate_ok {m : Nat} {c : Bool} {s : State} (h : (validate m c s).1 = .ok) : (max m 9 : Nat) ≤ s.rxlen.toInt := by
  unfold validate at h
  dsimp only at h
  split at h
  · cases h
  split at h
  · cases h
  split at h
  · cases h
  · omega

/-! ## The exchange -/

/-- A send changes nothing but the transport port and the counter of free values. -/
theorem transportSend_state (f : List Byte) (s : State) :
    ∃ a d, (transportSend f s).2
      = { s with transport := { s.transport with sendAnswers := a, requests := s.transport.requests ++ [.send f] }, draws := d } := by
  unfold transportSend
  dsimp only
  split
  · exact ⟨_, s.draws, rfl⟩
  · exact ⟨_, s.draws + 1, rfl⟩

/-- A receive changes nothing but the transport port and the counter of free values. -/
theorem transportRecv_state (n : Nat) (s : State) :
    ∃ a d, (transportRecv n s).2
      = { s with transport := { s.transport with recvAnswers := a, requests := s.transport.requests ++ [.recv n] }, draws := d } := by
  unfold transportRecv
  dsimp only
  split
  · exact ⟨_, s.draws, rfl⟩
  · exact ⟨_, s.draws + 1, rfl⟩

/-- A listed send answer is the one given. -/
theorem transportSend_listed {s : State} {r : Int} {rs : List Int} (f : List Byte) (h : s.transport.sendAnswers = r :: rs) :
    transportSend f s
      = (r, { s with transport := { s.transport with sendAnswers := rs, requests := s.transport.requests ++ [.send f] } }) := by
  simp [transportSend, request, h]

/-- A listed receive answer is the one given. -/
theorem transportRecv_listed {s : State} {a : RecvAnswer} {as : List RecvAnswer} (n : Nat)
    (h : s.transport.recvAnswers = a :: as) :
    transportRecv n s
      = (a, { s with transport := { s.transport with recvAnswers := as, requests := s.transport.requests ++ [.recv n] } }) := by
  simp [transportRecv, request, h]

/-- What a receive of an exchange can do: RXBUF becomes exactly the reply, of no byte where it failed, and RXLEN, the log, the transport port and the counter of free values change. -/
theorem receiveReply_state (s : State) :
    ∃ rx n a l d, (∃ bs : List Byte, bs.length ≤ 128 ∧ rx = Memory.writeAll [] 0 bs) ∧
      receiveReply s = { s with
        rx := rx, rxlen := n, log := s.log ++ l, draws := d
        transport := { s.transport with recvAnswers := a, requests := s.transport.requests ++ [.recv 128] } } := by
  obtain ⟨a, d, h⟩ := transportRecv_state 128 s
  unfold receiveReply
  dsimp only
  split
  · exact ⟨[], _, a, _, d, ⟨[], by simp, rfl⟩, by rw [h]; rfl⟩
  split
  · exact ⟨[], _, a, _, d, ⟨[], by simp, rfl⟩, by rw [h]; rfl⟩
  · exact ⟨_, _, a, [], d, ⟨_, RecvAnswer.data_length_le _ _, rfl⟩, by rw [h, List.append_nil]⟩

/-- What an exchange can do: TXBUF and TXLEN take the frame, RXBUF is exactly the reply, of no byte where it failed, and RXLEN, the log, the transport port and the counter of free values change. -/
theorem exchange_state (c p : List Byte) (s : State) :
    ∃ rx n t l d, (∃ bs : List Byte, bs.length ≤ 128 ∧ rx = Memory.writeAll [] 0 bs) ∧
      exchange c p s = { s with
        tx := Memory.writeAll s.tx 0 (buildFrame s.cfg c (chars2 s.ver) (chars2 s.adr) p)
        txlen := BitVec.ofNat 8 (18 + p.length)
        rx := rx, rxlen := n, log := s.log ++ l, draws := d, transport := t } := by
  let u := putFrame c p (transportFlush s)
  let f := buildFrame u.cfg c (chars2 u.ver) (chars2 u.adr) p
  obtain ⟨a, d, h⟩ := transportSend_state f u
  obtain ⟨rx, n, b, l, e, hrx, hr⟩ := receiveReply_state (transportSend f u).2
  unfold exchange
  dsimp only
  split
  · exact ⟨[], _, _, _, d, ⟨[], by simp, rfl⟩, by rw [h]; rfl⟩
  split
  · exact ⟨[], _, _, _, d, ⟨[], by simp, rfl⟩, by rw [h]; rfl⟩
  · exact ⟨rx, n, _, l, e, hrx, by rw [hr, h]; rfl⟩

/-- An exchange does not depend on what RXBUF held before it (70_reset_and_hazards.md R264). -/
@[simp] theorem exchange_rx (c p : List Byte) (s : State) (rx : Memory) : exchange c p { s with rx := rx } = exchange c p s := by
  cases hs : s.transport.sendAnswers <;> cases hq : s.transport.recvAnswers <;>
    simp [exchange, receiveReply, failExchange, logRec, transportSend, transportRecv, transportFlush, request, putFrame, hs, hq]

/-- What one attempt can do. -/
theorem exchangeAccept_state (c p : List Byte) (m : Nat) (k : Bool) (s : State) :
    ∃ rx n t l d x rc r, (∃ bs : List Byte, bs.length ≤ 128 ∧ rx = Memory.writeAll [] 0 bs) ∧
      (exchangeAccept c p m k s).2 = { s with
        tx := Memory.writeAll s.tx 0 (buildFrame s.cfg c (chars2 s.ver) (chars2 s.adr) p)
        txlen := BitVec.ofNat 8 (18 + p.length)
        rx := rx, rxlen := n, log := s.log ++ l, draws := d, transport := t
        nonhex := x, rc := rc, result := r } := by
  obtain ⟨rx, n, t, l, d, hrx, h⟩ := exchange_state c p s
  obtain ⟨x, rc, r, l', d', h'⟩ := accept_state m k (exchange c p s)
  exact ⟨rx, n, t, l ++ l', d', x, rc, r, hrx, by simp only [exchangeAccept]; rw [h', h]; simp⟩

/-! ## Bounded retry -/

/-- A property of states that setting ATTEMPTS and an attempt both keep is kept by the whole loop. -/
theorem retry_keeps {P : State → Prop} {attempt : State → OutcomeCode × State} {as : List Nat} {last : OutcomeCode} {s : State}
    (hs : P s) (ha : ∀ a ∈ as, ∀ u, P u → P { u with attempts := BitVec.ofNat 8 a }) (hatt : ∀ u, P u → P (attempt u).2) :
    P (retry attempt as last s).2 := by
  induction as generalizing s last with
  | nil => exact hs
  | cons a as ih =>
    have h1 := hatt _ (ha a (by simp) s hs)
    simp only [retry]
    split
    · exact h1
    · exact ih h1 fun b hb => ha b (by simp [hb])

/-- What every attempt gives for its outcome and state, the loop gives: its answer is an attempt's. -/
theorem retry_last {Q : OutcomeCode → State → Prop} {attempt : State → OutcomeCode × State}
    (h : ∀ u, Q (attempt u).1 (attempt u).2) (as : List Nat) (has : as ≠ []) (last : OutcomeCode) (s : State) :
    Q (retry attempt as last s).1 (retry attempt as last s).2 := by
  induction as generalizing last s with
  | nil => exact absurd rfl has
  | cons a as ih =>
    simp only [retry]
    split
    · exact h _
    · cases as with
      | nil => exact h _
      | cons b bs => exact ih (by simp) _ _

end Sys2Proof.Machine
end

