-- ==== Sys2Proof/Laws/Store.lean ====
section
/-! SUPPORT. What each store event does to each part of the store (10_state.md R41), and what the store holds after a list of events. -/

namespace Sys2Proof.Machine

open Sys2Proof.Config

/-! ## One event -/

@[simp] theorem apply_statusInit_status (t : Store) : (Store.apply .statusInit t).status = t.status := rfl
@[simp] theorem apply_statusInit_statusWork (t : Store) : (Store.apply .statusInit t).statusWork = StatusSet.empty := rfl
@[simp] theorem apply_statusInit_alarms (t : Store) : (Store.apply .statusInit t).alarms = t.alarms := rfl
@[simp] theorem apply_statusInit_alarmsWork (t : Store) : (Store.apply .statusInit t).alarmsWork = t.alarmsWork := rfl
@[simp] theorem apply_statusInit_facts (t : Store) : (Store.apply .statusInit t).facts = t.facts := rfl
@[simp] theorem apply_statusInit_mark (t : Store) : (Store.apply .statusInit t).mark = t.mark := rfl

@[simp] theorem apply_statusSet_status (f : StatusFlag) (t : Store) : (Store.apply (.statusSet f) t).status = t.status := rfl
@[simp] theorem apply_statusSet_statusWork (f : StatusFlag) (t : Store) : (Store.apply (.statusSet f) t).statusWork = StatusSet.add t.statusWork f := rfl
@[simp] theorem apply_statusSet_alarms (f : StatusFlag) (t : Store) : (Store.apply (.statusSet f) t).alarms = t.alarms := rfl
@[simp] theorem apply_statusSet_alarmsWork (f : StatusFlag) (t : Store) : (Store.apply (.statusSet f) t).alarmsWork = t.alarmsWork := rfl
@[simp] theorem apply_statusSet_facts (f : StatusFlag) (t : Store) : (Store.apply (.statusSet f) t).facts = t.facts := rfl
@[simp] theorem apply_statusSet_mark (f : StatusFlag) (t : Store) : (Store.apply (.statusSet f) t).mark = t.mark := rfl

@[simp] theorem apply_statusCommit_status (t : Store) : (Store.apply .statusCommit t).status = t.statusWork := rfl
@[simp] theorem apply_statusCommit_statusWork (t : Store) : (Store.apply .statusCommit t).statusWork = t.statusWork := rfl
@[simp] theorem apply_statusCommit_alarms (t : Store) : (Store.apply .statusCommit t).alarms = t.alarms := rfl
@[simp] theorem apply_statusCommit_alarmsWork (t : Store) : (Store.apply .statusCommit t).alarmsWork = t.alarmsWork := rfl
@[simp] theorem apply_statusCommit_facts (t : Store) : (Store.apply .statusCommit t).facts = t.facts := rfl
@[simp] theorem apply_statusCommit_mark (t : Store) : (Store.apply .statusCommit t).mark = t.mark := rfl

@[simp] theorem apply_alarmInit_status (t : Store) : (Store.apply .alarmInit t).status = t.status := rfl
@[simp] theorem apply_alarmInit_statusWork (t : Store) : (Store.apply .alarmInit t).statusWork = t.statusWork := rfl
@[simp] theorem apply_alarmInit_alarms (t : Store) : (Store.apply .alarmInit t).alarms = t.alarms := rfl
@[simp] theorem apply_alarmInit_alarmsWork (t : Store) : (Store.apply .alarmInit t).alarmsWork = Vector.replicate 26 false := rfl
@[simp] theorem apply_alarmInit_facts (t : Store) : (Store.apply .alarmInit t).facts = t.facts := rfl
@[simp] theorem apply_alarmInit_mark (t : Store) : (Store.apply .alarmInit t).mark = t.mark := rfl

@[simp] theorem apply_alarmSet_status (i : Fin 26) (t : Store) : (Store.apply (.alarmSet i) t).status = t.status := rfl
@[simp] theorem apply_alarmSet_statusWork (i : Fin 26) (t : Store) : (Store.apply (.alarmSet i) t).statusWork = t.statusWork := rfl
@[simp] theorem apply_alarmSet_alarms (i : Fin 26) (t : Store) : (Store.apply (.alarmSet i) t).alarms = t.alarms := rfl
@[simp] theorem apply_alarmSet_alarmsWork (i : Fin 26) (t : Store) : (Store.apply (.alarmSet i) t).alarmsWork = t.alarmsWork.set i true := rfl
@[simp] theorem apply_alarmSet_facts (i : Fin 26) (t : Store) : (Store.apply (.alarmSet i) t).facts = t.facts := rfl
@[simp] theorem apply_alarmSet_mark (i : Fin 26) (t : Store) : (Store.apply (.alarmSet i) t).mark = t.mark := rfl

@[simp] theorem apply_alarmCommit_status (t : Store) : (Store.apply .alarmCommit t).status = t.status := rfl
@[simp] theorem apply_alarmCommit_statusWork (t : Store) : (Store.apply .alarmCommit t).statusWork = t.statusWork := rfl
@[simp] theorem apply_alarmCommit_alarms (t : Store) : (Store.apply .alarmCommit t).alarms = t.alarmsWork := rfl
@[simp] theorem apply_alarmCommit_alarmsWork (t : Store) : (Store.apply .alarmCommit t).alarmsWork = t.alarmsWork := rfl
@[simp] theorem apply_alarmCommit_facts (t : Store) : (Store.apply .alarmCommit t).facts = t.facts := rfl
@[simp] theorem apply_alarmCommit_mark (t : Store) : (Store.apply .alarmCommit t).mark = t.mark := rfl

@[simp] theorem apply_fact_status (id : FactId) (v : FactValue) (t : Store) : (Store.apply (.fact id v) t).status = t.status := rfl
@[simp] theorem apply_fact_statusWork (id : FactId) (v : FactValue) (t : Store) : (Store.apply (.fact id v) t).statusWork = t.statusWork := rfl
@[simp] theorem apply_fact_alarms (id : FactId) (v : FactValue) (t : Store) : (Store.apply (.fact id v) t).alarms = t.alarms := rfl
@[simp] theorem apply_fact_alarmsWork (id : FactId) (v : FactValue) (t : Store) : (Store.apply (.fact id v) t).alarmsWork = t.alarmsWork := rfl
@[simp] theorem apply_fact_facts (id : FactId) (v : FactValue) (t : Store) : (Store.apply (.fact id v) t).facts = t.facts.set id.index (some v) := rfl
@[simp] theorem apply_fact_mark (id : FactId) (v : FactValue) (t : Store) : (Store.apply (.fact id v) t).mark = t.mark := rfl

@[simp] theorem apply_markStale_status (t : Store) : (Store.apply .markStale t).status = t.status := rfl
@[simp] theorem apply_markStale_statusWork (t : Store) : (Store.apply .markStale t).statusWork = t.statusWork := rfl
@[simp] theorem apply_markStale_alarms (t : Store) : (Store.apply .markStale t).alarms = t.alarms := rfl
@[simp] theorem apply_markStale_alarmsWork (t : Store) : (Store.apply .markStale t).alarmsWork = t.alarmsWork := rfl
@[simp] theorem apply_markStale_facts (t : Store) : (Store.apply .markStale t).facts = t.facts := rfl
@[simp] theorem apply_markStale_mark (t : Store) : (Store.apply .markStale t).mark = .stale := rfl

@[simp] theorem apply_markFresh_status (t : Store) : (Store.apply .markFresh t).status = t.status := rfl
@[simp] theorem apply_markFresh_statusWork (t : Store) : (Store.apply .markFresh t).statusWork = t.statusWork := rfl
@[simp] theorem apply_markFresh_alarms (t : Store) : (Store.apply .markFresh t).alarms = t.alarms := rfl
@[simp] theorem apply_markFresh_alarmsWork (t : Store) : (Store.apply .markFresh t).alarmsWork = t.alarmsWork := rfl
@[simp] theorem apply_markFresh_facts (t : Store) : (Store.apply .markFresh t).facts = t.facts := rfl
@[simp] theorem apply_markFresh_mark (t : Store) : (Store.apply .markFresh t).mark = .fresh := rfl

/-- The trace keeps every event in order. -/
@[simp] theorem apply_events (e : StoreEvent) (t : Store) : (Store.apply e t).events = t.events ++ [e] := by
  cases e <;> rfl

/-- The store holds a fact just published, and every other fact as before. -/
@[simp] theorem factOf_apply_fact (id k : FactId) (v : FactValue) (t : Store) :
    Store.factOf (Store.apply (.fact id v) t) k = if k.index = id.index then some v else Store.factOf t k := by
  unfold Store.factOf
  change (t.facts.set id.index (some v) id.index.isLt)[k.index.val] = if k.index = id.index then some v else t.facts[k.index.val]
  split
  · rename_i h
    simp [h]
  · rename_i h
    rw [Vector.getElem_set_ne _ _ fun e => h (Fin.ext e.symm)]

/-- A fact just published is the one the store holds. -/
theorem factOf_apply_same (id : FactId) (v : FactValue) (t : Store) : Store.factOf (Store.apply (.fact id v) t) id = some v := by
  simp

@[simp] theorem factOf_apply_markStale (k : FactId) (t : Store) : Store.factOf (Store.apply .markStale t) k = Store.factOf t k := rfl

@[simp] theorem factOf_apply_markFresh (k : FactId) (t : Store) : Store.factOf (Store.apply .markFresh t) k = Store.factOf t k := rfl

/-! ## A list of events -/

@[simp] theorem applyEvents_nil (t : Store) : applyEvents [] t = t := rfl

@[simp] theorem applyEvents_cons (e : StoreEvent) (es : List StoreEvent) (t : Store) :
    applyEvents (e :: es) t = applyEvents es (Store.apply e t) := rfl

@[simp] theorem applyEvents_append (es fs : List StoreEvent) (t : Store) :
    applyEvents (es ++ fs) t = applyEvents fs (applyEvents es t) := by
  simp [applyEvents]

theorem applyEvents_events (es : List StoreEvent) (t : Store) : (applyEvents es t).events = t.events ++ es := by
  induction es generalizing t with
  | nil => simp
  | cons e es ih => simp [ih]

/-- ALARM_SET events change nothing but the working set and the trace. -/
theorem applyEvents_alarmSet_frame (l : List (Fin 26)) (t : Store) :
    (applyEvents (l.map .alarmSet) t).status = t.status ∧ (applyEvents (l.map .alarmSet) t).statusWork = t.statusWork
    ∧ (applyEvents (l.map .alarmSet) t).alarms = t.alarms ∧ (applyEvents (l.map .alarmSet) t).facts = t.facts
    ∧ (applyEvents (l.map .alarmSet) t).mark = t.mark := by
  induction l generalizing t with
  | nil => simp
  | cons a l ih => simp [ih]

/-- After ALARM_SET events the working set holds what it held and the slots named. -/
theorem applyEvents_alarmSet_work (l : List (Fin 26)) (t : Store) (i : Fin 26) :
    (applyEvents (l.map .alarmSet) t).alarmsWork.get i = true ↔ t.alarmsWork.get i = true ∨ i ∈ l := by
  induction l generalizing t with
  | nil => simp
  | cons a l ih =>
    simp only [List.map_cons, applyEvents_cons, ih, apply_alarmSet_alarmsWork]
    change ((t.alarmsWork.set a true a.isLt)[i.val] = true ∨ i ∈ l) ↔ (t.alarmsWork[i.val] = true ∨ i ∈ a :: l)
    by_cases h : a = i
    · subst h
      simp
    · rw [Vector.getElem_set_ne _ _ fun e => h (Fin.ext e)]
      simp [Ne.symm h]

end Sys2Proof.Machine
end

