-- ==== Sys2Proof/Laws/Poll.lean ====
section
/-! SUPPORT. What the phase handlers can do (44_pollfsm.md): they change nothing but the store, the log, NONHEX and the counter of free values. -/

namespace Sys2Proof.Machine

open Sys2Proof.Config

/-- The footprint of a batch: the store, the log, NONHEX and the counter of free values, the log and the store only growing by what was logged and emitted. -/
def Publishes (s t : State) : Prop :=
  ∃ es l x d, t = { s with store := applyEvents es s.store, log := s.log ++ l, nonhex := x, draws := d }

theorem Publishes.refl (s : State) : Publishes s s := ⟨[], [], s.nonhex, s.draws, by simp⟩

theorem Publishes.trans {s t u : State} (h : Publishes s t) (g : Publishes t u) : Publishes s u := by
  obtain ⟨es, l, x, d, rfl⟩ := h
  obtain ⟨fs, m, y, e, rfl⟩ := g
  exact ⟨es ++ fs, l ++ m, y, e, by simp⟩

theorem Publishes.emit {s t : State} (h : Publishes s t) (e : StoreEvent) : Publishes s (emit e t) :=
  h.trans ⟨[e], [], t.nonhex, t.draws, by simp [Machine.emit]⟩

theorem Publishes.emitIf {s t : State} (h : Publishes s t) (c : Bool) (e : StoreEvent) : Publishes s (emitIf c e t) := by
  unfold Machine.emitIf
  split
  · exact h.emit e
  · exact h

theorem Publishes.logRec {s t : State} (h : Publishes s t) (c : LogCode) (a : Int) : Publishes s (logRec c a t) :=
  h.trans ⟨[], [⟨c, a⟩], t.nonhex, t.draws, by simp [Machine.logRec]⟩

theorem Publishes.readHex {s t : State} (h : Publishes s t) (off len : Nat) : Publishes s (readHex off len t).2 := by
  obtain ⟨x, d, hx⟩ := readHex_state off len t
  exact h.trans ⟨[], [], x, d, by rw [hx]; simp⟩

theorem Publishes.readHexByte {s t : State} (h : Publishes s t) (off : Nat) : Publishes s (readHexByte off t).2 :=
  h.readHex off 2

theorem Publishes.commitStatus {s t : State} (h : Publishes s t) (f : StatusSet) : Publishes s (commitStatus f t) :=
  ((((h.emit _).emitIf _ _).emitIf _ _).emitIf _ _).emit _

theorem Publishes.logAnomaly {α : Type} {s t : State} (h : Publishes s t) (r : Option α) (c : LogCode) (v : Nat) :
    Publishes s (logAnomaly r c v t) := by
  cases r
  · exact h.logRec _ _
  · exact h

theorem Publishes.publishMapped {s t : State} (h : Publishes s t) (r : Option FactValue) (c : LogCode) (v : Nat) (id : FactId) :
    Publishes s (publishMapped r c v id t) := by
  cases r
  · exact h.logRec _ _
  · exact h.emit _

theorem Publishes.readOnoff {s t : State} (h : Publishes s t) : Publishes s (readOnoff t).2 := by
  unfold Machine.readOnoff
  dsimp only
  exact (((h.readHexByte _).readHexByte _).readHexByte _).readHexByte _

theorem Publishes.publishOnoff {s t : State} (h : Publishes s t) (f : OnoffFields) : Publishes s (publishOnoff f t) := by
  unfold Machine.publishOnoff
  dsimp only
  refine Publishes.publishMapped (Publishes.publishMapped (Publishes.emit ?_ _) _ _ _ _) _ _ _ _
  refine Publishes.emitIf (Publishes.emitIf (Publishes.emitIf ?_ _ _) _ _) _ _
  exact Publishes.logAnomaly (Publishes.logAnomaly (h.emit _) _ _ _) _ _ _

/-- The ONOFF handler publishes and does nothing else. -/
theorem onoffHandler_publishes (df : Nat) (s : State) : Publishes s (onoffHandler df s).2 := by
  unfold onoffHandler
  dsimp only
  exact Publishes.publishOnoff (Publishes.readOnoff (Publishes.refl s)) _

theorem publishAnalog_publishes (k : AnalogFact) (s : State) : Publishes s (publishAnalog k s).2 :=
  ((Publishes.refl s).readHex _ _).emit _

theorem publishAnalogs_publishes (ks : List AnalogFact) (s : State) : Publishes s (publishAnalogs ks s) := by
  induction ks generalizing s with
  | nil => exact Publishes.refl s
  | cons k ks ih => exact (publishAnalog_publishes k s).trans (ih _)

theorem correct_publishes (vin : Nat) (nx : Phase) (s : State) : Publishes s (correct vin nx s).2 := by
  unfold correct
  split
  · exact Publishes.refl s
  · exact ((Publishes.refl s).commitStatus _).logRec _ _

/-- The ANALOG handler publishes and does nothing else. -/
theorem analogHandler_publishes (df : Nat) (s : State) : Publishes s (analogHandler df s).2 :=
  ((publishAnalog_publishes _ s).trans (publishAnalogs_publishes _ _)).trans (correct_publishes _ _ _)

theorem warnSlot_publishes (i : Fin 26) (s : State) : Publishes s (warnSlot i s) := by
  have h := (Publishes.refl s).readHexByte (warnBaseOffset s.cfg + 2 * i.val)
  unfold warnSlot
  split
  · exact Publishes.refl s
  · dsimp only
    split
    · exact h.emit _
    · split
      · exact h
      · exact h.logRec _ _

theorem warnSlots_publishes (is : List (Fin 26)) (s : State) : Publishes s (warnSlots is s) := by
  induction is generalizing s with
  | nil => exact Publishes.refl s
  | cons i is ih => exact (warnSlot_publishes i s).trans (ih _)

/-- The WARNING handler publishes and does nothing else. -/
theorem warningHandler_publishes (s : State) : Publishes s (warningHandler s).2 :=
  (((Publishes.refl s).emit _).trans (warnSlots_publishes _ _)).emit _

theorem Publishes.readSysField {s t : State} (h : Publishes s t) (f : SysField) : Publishes s (readSysField f t).2 := by
  cases f
  · exact h.readHexByte _
  · exact h.readHex _ _

theorem Publishes.readSys {s t : State} (h : Publishes s t) : Publishes s (readSys t).2 := by
  unfold Machine.readSys
  dsimp only
  exact ((((((h.readSysField _).readSysField _).readSysField _).readSysField _).readSysField _).readSysField _).readSysField _

theorem Publishes.publishSys {s t : State} (h : Publishes s t) (f : SysFields) : Publishes s (publishSys f t) := by
  unfold Machine.publishSys
  dsimp only
  refine Publishes.emit (Publishes.emitIf (Publishes.emitIf ?_ _ _) _ _) _
  exact (h.emit _).emit _

/-- The SYSPARAM handler publishes and does nothing else. -/
theorem sysparamHandler_publishes (s : State) : Publishes s (sysparamHandler s).2 := by
  unfold sysparamHandler
  dsimp only
  exact Publishes.publishSys (Publishes.readSys (Publishes.refl s)) _

/-- Every phase handler publishes and does nothing else. -/
theorem phaseHandler_publishes (ph : Phase) (df : Nat) (s : State) : Publishes s (phaseHandler ph df s).2 := by
  cases ph
  · exact onoffHandler_publishes df s
  · exact analogHandler_publishes df s
  · exact warningHandler_publishes s
  · exact sysparamHandler_publishes s

/-- A published batch: PHASE and DATAFLAG, and what the handler publishes. -/
theorem tickPublish_state (ph : Phase) (s : State) :
    ∃ es l x d nx df, tickPublish ph s
      = { s with
          store := applyEvents es s.store, log := s.log ++ l, nonhex := x, draws := d
          phase := nx, dataflag := df } := by
  obtain ⟨x, d, h⟩ := readHexByte_state (dataflagOffset s.cfg) s
  unfold tickPublish
  dsimp only
  generalize readHexByte (dataflagOffset s.cfg) s = r at h ⊢
  obtain ⟨v, t⟩ := r
  dsimp only at h ⊢
  subst h
  have g := phaseHandler_publishes ph v { s with nonhex := x, draws := d, dataflag := BitVec.ofNat 8 v }
  generalize phaseHandler ph v { s with nonhex := x, draws := d, dataflag := BitVec.ofNat 8 v } = q at g ⊢
  obtain ⟨nx, u⟩ := q
  obtain ⟨es, l, y, e, rfl⟩ := g
  exact ⟨es ++ [.markFresh], l, y, e, nx, BitVec.ofNat 8 v, by simp [emit]⟩

end Sys2Proof.Machine
end

