-- ==== Sys2Proof/Laws/Exec.lean ====
section
/-! SUPPORT. What each command can do: `exec` is the command's own rule or WRONG_MODE (60_exceptions.md R226), and each rule changes only the fields named here (60_exceptions.md R225: every command rule lists its writes). -/

namespace Sys2Proof.Machine

open Sys2Proof.Config

/-- The row of the mode table a command stands in (60_exceptions.md R226). -/
def rowOf : Instr → ModeRow
  | .build | .lchk _ | .pchk _ _ _ | .validate _ | .chklen | .chksum | .hex2val _ _ | .hex2str _ _ _ | .exchange => .untilFatal
  | .execute _ | .tick => .runningOnly
  | .probe => .uninitOnly

/-- A command's own rule. -/
def bodyOf : Instr → State → State
  | .build => buildBody
  | .lchk l12 => lchkBody l12
  | .pchk sel off len => pchkBody sel off len
  | .validate minlen => validateBody minlen
  | .chklen => chklenBody
  | .chksum => chksumBody
  | .hex2val off len => hex2valBody off len
  | .hex2str off len cap => hex2strBody off len cap
  | .exchange => exchangeBody
  | .execute idx => executeBody idx
  | .tick => tickBody
  | .probe => probeBody

/-- Every command answers a next state: its own rule's, or WRONG_MODE. -/
theorem exec_eq (i : Instr) (s : State) :
    exec i s = .next (if modeAllows (rowOf i) s.mode then bodyOf i s else finish .wrongMode s) := by
  cases i <;> rfl

theorem exec_allowed {i : Instr} {s : State} (h : modeAllows (rowOf i) s.mode = true) : exec i s = .next (bodyOf i s) := by
  simp [exec_eq, h]

theorem exec_wrongMode {i : Instr} {s : State} (h : modeAllows (rowOf i) s.mode = false) :
    exec i s = .next (finish .wrongMode s) := by
  simp [exec_eq, h]

/-- The rows that RUNNING and UNINIT allow. -/
theorem untilFatal_of_ne {m : Mode} (h : m ≠ .fatal) : modeAllows .untilFatal m = true := by
  cases m
  · rfl
  · rfl
  · exact absurd rfl h

/-! ## The writes of each command -/

/-- BUILD writes TXBUF, TXLEN and the outcome; the log takes only what `finish` records. -/
theorem buildBody_state (s : State) :
    ∃ o tx n d, buildBody s = finish o { s with tx := tx, txlen := n, draws := d } := by
  obtain ⟨d, h⟩ := readBytes_state .pl 0 s.pllen.toNat s
  unfold buildBody
  dsimp only
  split
  · exact ⟨_, s.tx, s.txlen, s.draws, rfl⟩
  · exact ⟨_, _, _, d, by rw [h]; rfl⟩

/-- LCHK writes RESULT and the outcome. -/
theorem lchkBody_state (l12 : Nat) (s : State) : ∃ o r, lchkBody l12 s = finish o { s with result := r } := ⟨_, _, rfl⟩

/-- PCHK writes RESULT and the outcome. -/
theorem pchkBody_state (sel : BufSel) (off len : Nat) (s : State) :
    ∃ o r d, pchkBody sel off len s = finish o { s with result := r, draws := d } := by
  obtain ⟨d, h⟩ := readBytes_state (bufOfSel sel) off len s
  unfold pchkBody
  dsimp only
  split
  · exact ⟨_, s.result, s.draws, rfl⟩
  · exact ⟨_, _, d, by rw [h]⟩

/-- VALIDATE writes NONHEX, RC, RESULT, the log and the outcome. -/
theorem validateBody_state (m : Nat) (s : State) :
    ∃ o x rc r l d, validateBody m s
      = finish o { s with nonhex := x, rc := rc, result := r, log := s.log ++ l, draws := d } := by
  obtain ⟨x, rc, r, l, d, h⟩ := validate_state m true s
  exact ⟨_, x, rc, r, l, d, by simp only [validateBody]; rw [h]⟩

/-- CHKLEN writes RESULT, the log and the outcome. -/
theorem chklenBody_state (s : State) :
    ∃ o r l d, chklenBody s = finish o { s with result := r, log := s.log ++ l, draws := d } := by
  obtain ⟨r, l, d, h⟩ := checkLength_state s
  exact ⟨_, r, l, d, by simp only [chklenBody]; rw [h]⟩

/-- CHKSUM writes RESULT, the log and the outcome. -/
theorem chksumBody_state (s : State) :
    ∃ o r l d, chksumBody s = finish o { s with result := r, log := s.log ++ l, draws := d } := by
  obtain ⟨r, l, d, h⟩ := checkSum_state s
  exact ⟨_, r, l, d, by simp only [chksumBody]; rw [h]⟩

/-- HEX2VAL writes RESULT, NONHEX and the outcome. -/
theorem hex2valBody_state (off len : Nat) (s : State) :
    ∃ o r x d, hex2valBody off len s = finish o { s with result := r, nonhex := x, draws := d } := by
  obtain ⟨x, d, h⟩ := readHex_state off len s
  unfold hex2valBody
  dsimp only
  split
  · exact ⟨_, _, s.nonhex, s.draws, rfl⟩
  split
  · exact ⟨_, s.result, s.nonhex, s.draws, rfl⟩
  · exact ⟨_, _, x, d, by rw [h]⟩

/-- HEX2STR writes STRBUF, STRLEN, NONHEX and the outcome. -/
theorem hex2strBody_state (off len cap : Nat) (s : State) :
    ∃ o str n x d, hex2strBody off len cap s = finish o { s with str := str, strlen := n, nonhex := x, draws := d } := by
  obtain ⟨d, h⟩ := readBytes_state .rx off len s
  obtain ⟨x, e, g⟩ := strFromHex_state (readBytes .rx off len s).1 len cap (readBytes .rx off len s).2
  unfold hex2strBody
  dsimp only
  split
  · exact ⟨_, s.str, s.strlen, s.nonhex, s.draws, rfl⟩
  split
  · exact ⟨_, s.str, s.strlen, s.nonhex, s.draws, rfl⟩
  · exact ⟨_, _, _, x, e, by rw [g, h]⟩

/-- EXCHANGE writes TXBUF, TXLEN, RXBUF, RXLEN, the log and the outcome, and makes transport requests. -/
theorem exchangeBody_state (s : State) :
    ∃ o tx n rx m t l d, exchangeBody s = finish o { s with
      tx := tx, txlen := n, rx := rx, rxlen := m, transport := t, log := s.log ++ l, draws := d } := by
  obtain ⟨d, h⟩ := readBytes_state .pl 0 s.pllen.toNat s
  obtain ⟨rx, m, t, l, e, _, g⟩ := exchange_state (chars4 s.cid) (readBytes .pl 0 s.pllen.toNat s).1
    (readBytes .pl 0 s.pllen.toNat s).2
  unfold exchangeBody
  dsimp only
  split
  · exact ⟨_, s.tx, s.txlen, s.rx, s.rxlen, s.transport, [], s.draws, by rw [List.append_nil]⟩
  · exact ⟨_, _, _, rx, m, t, l, e, by rw [g, h]⟩

/-- What the attempts of EXECUTE and PROBE can write: what an attempt writes, and ATTEMPTS. -/
def Attempted (s t : State) : Prop :=
  ∃ tx n rx m tr l d x rc r a, t = { s with
    tx := tx, txlen := n, rx := rx, rxlen := m, transport := tr, log := s.log ++ l, draws := d
    nonhex := x, rc := rc, result := r, attempts := a }

theorem Attempted.refl (s : State) : Attempted s s :=
  ⟨s.tx, s.txlen, s.rx, s.rxlen, s.transport, [], s.draws, s.nonhex, s.rc, s.result, s.attempts, by simp⟩

/-- One more attempt. -/
theorem Attempted.attempt {s t : State} (h : Attempted s t) (c p : List Byte) (m : Nat) (k : Bool) :
    Attempted s (exchangeAccept c p m k t).2 := by
  obtain ⟨tx, n, rx, m', tr, l, d, x, rc, r, a, rfl⟩ := h
  obtain ⟨rx', n', t', l', d', x', rc', r', _, h⟩ := exchangeAccept_state c p m k { s with
    tx := tx, txlen := n, rx := rx, rxlen := m', transport := tr, log := s.log ++ l, draws := d
    nonhex := x, rc := rc, result := r, attempts := a }
  exact ⟨_, _, rx', n', t', l ++ l', d', x', rc', r', a, by rw [h, ← List.append_assoc]⟩

theorem Attempted.setAttempts {s t : State} (h : Attempted s t) (a : BitVec 8) : Attempted s { t with attempts := a } := by
  obtain ⟨tx, n, rx, m', tr, l, d, x, rc, r, b, rfl⟩ := h
  exact ⟨tx, n, rx, m', tr, l, d, x, rc, r, a, rfl⟩

/-- The whole loop of attempts. -/
theorem retry_attempted (c p : List Byte) (m : Nat) (k : Bool) (as : List Nat) (last : OutcomeCode) (s : State) :
    Attempted s (retry (exchangeAccept c p m k) as last s).2 :=
  retry_keeps (Attempted.refl s) (fun _ _ _ h => h.setAttempts _) (fun _ h => h.attempt c p m k)

end Sys2Proof.Machine
end

