-- ==== Sys2Proof/Laws/HostPort.lean ====
section
/-! SUPPORT. What a host access and a turn can do (20_memory.md R51 to R62): one lemma for each operation of the host port, and the cases of a step. -/

namespace Sys2Proof.Machine

/-! ## Reads -/

/-- Reading a window's byte changes only the counter of free values. -/
theorem windowByte_state (b : Buf) (i : Nat) (s : State) : ∃ d, (windowByte b i s).2 = { s with draws := d } := by
  unfold windowByte
  split
  · exact readByte_state b i s
  · exact ⟨s.draws, rfl⟩

/-- A byte past the buffer's size reads 0 (10_state.md R38: PLBUF's bytes 110 and 111). -/
theorem windowByte_past {b : Buf} {i : Nat} (s : State) (h : b.size ≤ i) : windowByte b i s = (0, s) := by
  simp [windowByte, Nat.not_lt.mpr h]

/-- A written byte reads as written, without a free value. -/
theorem windowByte_written {b : Buf} {i : Nat} {s : State} {v : Byte} (hi : i < b.size)
    (h : Memory.read (s.buf b) i = some v) : windowByte b i s = (v, s) := by
  rw [windowByte, if_pos hi, readByte_written h]

/-- Reading a window's word changes only the counter of free values. -/
theorem readWindow_state (b : Buf) (i : Nat) (s : State) : ∃ d, (readWindow b i s).2 = { s with draws := d } := by
  obtain ⟨d0, h0⟩ := windowByte_state b i s
  obtain ⟨d1, h1⟩ := windowByte_state b (i + 1) (windowByte b i s).2
  obtain ⟨d2, h2⟩ := windowByte_state b (i + 2) (windowByte b (i + 1) (windowByte b i s).2).2
  obtain ⟨d3, h3⟩ := windowByte_state b (i + 3) (windowByte b (i + 2) (windowByte b (i + 1) (windowByte b i s).2).2).2
  exact ⟨d3, by simp only [readWindow]; rw [h3, h2, h1, h0]⟩

/-- Reading a register changes at most the counter of free values (20_memory.md R57). -/
theorem readReg_state (r : HostReg) (s : State) : ∃ d, (readReg r s).2 = { s with draws := d } := by
  cases r with
  | window b i => exact readWindow_state b i s
  | _ => exact ⟨s.draws, rfl⟩

/-- What a host read can do (20_memory.md R51, R57, R61): BUSERR, the host's data and the counter of free values are all it changes, and it never clears BUSERR. -/
theorem hostRead_state (width : Nat) (a : BitVec 12) (s : State) :
    ∃ b x d, hostRead width a s = { s with buserr := b, hostData := x, draws := d } ∧ (s.buserr = true → b = true) := by
  unfold hostRead
  cases hostTarget width a with
  | none =>
    dsimp only
    split
    · exact ⟨true, _, _, rfl, fun _ => rfl⟩
    · exact ⟨true, _, _, rfl, fun _ => rfl⟩
  | some r =>
    dsimp only
    split
    · exact ⟨s.buserr, _, _, rfl, id⟩
    · obtain ⟨d, hd⟩ := readReg_state r s
      exact ⟨s.buserr, _, d, by rw [hd], id⟩

/-! ## Writes -/

/-- What a host write can do (20_memory.md R51, R60, R61): only BUSERR or OVERRUN rises, or, where the register takes it, `writeReg`. -/
theorem hostWrite_cases (width : Nat) (a : BitVec 12) (v : Word) (s : State) :
    (∃ b o, hostWrite width a v s = { s with buserr := b, overrun := o }
      ∧ (s.buserr = true → b = true) ∧ (s.overrun = true → o = true))
    ∨ ∃ r, hostTarget width a = some r ∧ (s.busy = false ∨ a = statusAddr) ∧ hostWrite width a v s = writeReg r v s := by
  unfold hostWrite
  cases hostTarget width a with
  | none =>
    dsimp only
    split
    · exact .inl ⟨true, true, rfl, fun _ => rfl, fun _ => rfl⟩
    · exact .inl ⟨true, s.overrun, rfl, fun _ => rfl, id⟩
  | some r =>
    dsimp only
    split
    · exact .inl ⟨s.buserr, true, rfl, id, fun _ => rfl⟩
    · rename_i h
      refine .inr ⟨r, rfl, ?_, rfl⟩
      by_cases ha : a = statusAddr
      · exact .inr ha
      · exact .inl (by simpa [ha] using h)

/-! ## Turns -/

/-- What the block's turn can do (20_memory.md R60, 30_encoding.md R71). -/
theorem blockStep_cases {s t : State} (h : blockStep s = .next t) :
    (s.busy = false ∧ t = s)
    ∨ (s.busy = true ∧ ∃ i, decode s.pending = .ok i ∧ exec i s = .next t)
    ∨ (s.busy = true ∧ (∀ i, decode s.pending ≠ .ok i) ∧ t = finish .illegalCommand s) := by
  unfold blockStep at h
  split at h
  · rename_i hb
    unfold runPending at h
    cases hd : decode s.pending with
    | ok i => rw [hd] at h; exact .inr (.inl ⟨hb, i, rfl, h⟩)
    | illegalOpcode op => rw [hd] at h; cases h; exact .inr (.inr ⟨hb, by simp, rfl⟩)
    | reservedBits op => rw [hd] at h; cases h; exact .inr (.inr ⟨hb, by simp, rfl⟩)
  · rename_i hb
    cases h
    exact .inl ⟨by simpa using hb, rfl⟩

/-- What a step can do (20_memory.md R56, R62): a reset, a host access, or the block's turn, the turn taken. -/
theorem step_cases {s t : State} (h : step s = .next t) :
    (∃ rest, s.turns = .reset :: rest ∧ t = blockReset { s with turns := rest })
    ∨ (∃ w a rest, s.turns = .hostRead w a :: rest ∧ t = hostRead w a { s with turns := rest })
    ∨ (∃ w a v rest, s.turns = .hostWrite w a v :: rest ∧ t = hostWrite w a v { s with turns := rest })
    ∨ ((s.turns = [] ∨ ∃ rest, s.turns = .block :: rest) ∧ blockStep { s with turns := s.turns.tail } = .next t) := by
  unfold step nextTurn at h
  split at h
  · rename_i ht
    refine .inr (.inr (.inr ⟨.inl ht, ?_⟩))
    have hs : ({ s with turns := s.turns.tail } : State) = s := by
      rw [ht]; exact congrArg (fun l => ({ s with turns := l } : State)) ht.symm
    rw [hs]
    exact h
  · rename_i turn rest ht
    cases turn with
    | block => exact .inr (.inr (.inr ⟨.inr ⟨rest, ht⟩, by rw [ht]; exact h⟩))
    | hostRead w a => cases h; exact .inr (.inl ⟨w, a, rest, ht, rfl⟩)
    | hostWrite w a v => cases h; exact .inr (.inr (.inl ⟨w, a, v, rest, ht, rfl⟩))
    | reset => cases h; exact .inl ⟨rest, ht, rfl⟩

end Sys2Proof.Machine
end

