-- ==== Sys2Proof/Laws/PerInstr.lean ====
section
/-! SUPPORT. Statements about every instruction as syntax, one lemma per constructor. -/

namespace Sys2Proof.Laws

/-- The low byte of an instruction's word is its opcode (30_encoding.md R70), whatever its fields. -/
def OpcodeField.Statement (i : Instr) : Prop := slice (encode i) 7 0 = opcode i

/-- The low byte of a word built from an opcode and operand bits is the opcode. -/
theorem opcodeField_of_parts {i : Instr} (h : opcode i < 256) : OpcodeField.Statement i := by
  simp only [OpcodeField.Statement, slice, encode, BitVec.toNat_ofNat]
  omega

theorem OpcodeField.build : OpcodeField.Statement .build := opcodeField_of_parts (by decide)
theorem OpcodeField.lchk (l12 : Nat) : OpcodeField.Statement (.lchk l12) := opcodeField_of_parts (by simp [opcode])
theorem OpcodeField.pchk (sel : BufSel) (off len : Nat) : OpcodeField.Statement (.pchk sel off len) :=
  opcodeField_of_parts (by simp [opcode])
theorem OpcodeField.validate (minlen : Nat) : OpcodeField.Statement (.validate minlen) := opcodeField_of_parts (by simp [opcode])
theorem OpcodeField.chklen : OpcodeField.Statement .chklen := opcodeField_of_parts (by decide)
theorem OpcodeField.chksum : OpcodeField.Statement .chksum := opcodeField_of_parts (by decide)
theorem OpcodeField.hex2val (off len : Nat) : OpcodeField.Statement (.hex2val off len) := opcodeField_of_parts (by simp [opcode])
theorem OpcodeField.hex2str (off len cap : Nat) : OpcodeField.Statement (.hex2str off len cap) :=
  opcodeField_of_parts (by simp [opcode])
theorem OpcodeField.exchange : OpcodeField.Statement .exchange := opcodeField_of_parts (by decide)
theorem OpcodeField.execute (idx : Nat) : OpcodeField.Statement (.execute idx) := opcodeField_of_parts (by simp [opcode])
theorem OpcodeField.tick : OpcodeField.Statement .tick := opcodeField_of_parts (by decide)
theorem OpcodeField.probe : OpcodeField.Statement .probe := opcodeField_of_parts (by decide)

end Sys2Proof.Laws
end

