-- ==== Sys2Proof/Laws/Reply.lean ====
section
/-! SUPPORT. What an exchange does for each answer that the transport lists, and what the reads of a received reply give (43_exchange_dispatch.md R150, 41_codec.md R107, 42_hexdecode.md R130). -/

namespace Sys2Proof.Machine

open Sys2Proof.Config

/-! ## The end of a command -/

@[simp] theorem finishRecords_ok (w : Word) : finishRecords .ok w = [] := rfl

/-- An outcome that `finish` does not log leaves the log as the command made it. -/
theorem finish_unlogged {o : OutcomeCode} (h : o.finishLog = none) (s : State) :
    finish o s = { s with outcome := o, busy := false, done := true } := by
  simp [finish, finishRecords, h]

/-- An outcome that `finish` logs adds the command word's record. -/
theorem finish_logged {o : OutcomeCode} {c : LogCode} (h : o.finishLog = some c) (s : State) :
    finish o s
      = { s with log := s.log ++ [{ code := c, arg := s.pending.toNat }], outcome := o, busy := false, done := true } := by
  simp [finish, finishRecords, h]

/-! ## Small lengths in RXLEN -/

/-- A byte count of at most 128 is what RXLEN holds (10_state.md R27). -/
theorem toInt_count {n : Nat} (h : n ≤ 128) : (BitVec.ofNat 16 n).toInt = n := by
  rw [BitVec.toInt_eq_toNat_of_lt (by rw [BitVec.toNat_ofNat]; omega), BitVec.toNat_ofNat]
  omega

theorem ofInt_count (w n : Nat) : BitVec.ofInt w (n : Int) = BitVec.ofNat w n := by
  simp

/-! ## The exchange, by the transport's answers -/

/-- A nonempty reply: the frame is sent, RXBUF holds exactly the reply, RXLEN its length. -/
theorem exchange_replied {s : State} {r : Int} {sends : List Int} {first : Byte} {rest : List Byte} {recvs : List RecvAnswer}
    (c p : List Byte) (hr : 0 < r) (hs : s.transport.sendAnswers = r :: sends)
    (hq : s.transport.recvAnswers = .bytes first rest :: recvs) :
    exchange c p s = { s with
      tx := Memory.writeAll s.tx 0 (buildFrame s.cfg c (chars2 s.ver) (chars2 s.adr) p)
      txlen := BitVec.ofNat 8 (18 + p.length)
      rx := Memory.writeAll [] 0 ((first :: rest).take 128)
      rxlen := BitVec.ofNat 16 ((first :: rest).take 128).length
      transport :=
        { sendAnswers := sends
          recvAnswers := recvs
          requests := s.transport.requests
            ++ [.flush, .send (buildFrame s.cfg c (chars2 s.ver) (chars2 s.adr) p), .recv 128] } } := by
  have h1 : ¬ r = 0 := by omega
  have h2 : ¬ r < 0 := by omega
  have hlen : ((min 128 (rest.length + 1) : Nat) : Int) = min 128 ((rest.length : Int) + 1) := by simp
  have h3 : ¬ (min 128 ((rest.length : Int) + 1)) = 0 := by omega
  have h4 : ¬ (min 128 ((rest.length : Int) + 1)) < 0 := by omega
  have h5 : BitVec.ofInt 16 (min 128 ((rest.length : Int) + 1)) = BitVec.ofNat 16 (min 128 (rest.length + 1)) := by
    rw [← hlen, ofInt_count]
  simp [exchange, putFrame, transportFlush, request, transportSend, transportRecv, receiveReply, hs, hq, h1, h2, h3, h4, h5,
    RecvAnswer.result, RecvAnswer.data]
  congr 1
  omega

/-- A send that does not succeed: the frame is in TXBUF, nothing is received, RXBUF holds nothing. -/
theorem exchange_unsent {s : State} {r : Int} {sends : List Int} (c p : List Byte) (hr : r ≤ 0)
    (hs : s.transport.sendAnswers = r :: sends) :
    exchange c p s = { s with
      tx := Memory.writeAll s.tx 0 (buildFrame s.cfg c (chars2 s.ver) (chars2 s.adr) p)
      txlen := BitVec.ofNat 8 (18 + p.length)
      rxlen := if r = 0 then 0 else -1
      rx := []
      log := s.log ++ [{ code := if r = 0 then .txTimeout else .txIoerr, arg := r }]
      transport := { s.transport with
        sendAnswers := sends
        requests := s.transport.requests ++ [.flush, .send (buildFrame s.cfg c (chars2 s.ver) (chars2 s.adr) p)] } } := by
  by_cases h : r = 0
  · simp [exchange, putFrame, transportFlush, request, transportSend, hs, h, failExchange, logRec]
  · have h2 : r < 0 := by omega
    simp [exchange, putFrame, transportFlush, request, transportSend, hs, h, h2, failExchange, logRec]

/-- A receive that does not succeed: RXBUF holds nothing. -/
theorem exchange_unanswered {s : State} {r : Int} {sends : List Int} {a : RecvAnswer} {recvs : List RecvAnswer} (c p : List Byte)
    (hr : 0 < r) (hs : s.transport.sendAnswers = r :: sends) (hq : s.transport.recvAnswers = a :: recvs)
    (ha : RecvAnswer.result a 128 ≤ 0) :
    exchange c p s = { s with
      tx := Memory.writeAll s.tx 0 (buildFrame s.cfg c (chars2 s.ver) (chars2 s.adr) p)
      txlen := BitVec.ofNat 8 (18 + p.length)
      rxlen := if RecvAnswer.result a 128 = 0 then 0 else -1
      rx := []
      log := s.log ++ [{ code := if RecvAnswer.result a 128 = 0 then .rxTimeout else .rxIoerr, arg := RecvAnswer.result a 128 }]
      transport :=
        { sendAnswers := sends
          recvAnswers := recvs
          requests := s.transport.requests
            ++ [.flush, .send (buildFrame s.cfg c (chars2 s.ver) (chars2 s.adr) p), .recv 128] } } := by
  have h1 : ¬ r = 0 := by omega
  have h2 : ¬ r < 0 := by omega
  by_cases h : RecvAnswer.result a 128 = 0
  · simp [exchange, putFrame, transportFlush, request, transportSend, transportRecv, receiveReply, hs, hq, h1, h2, h, failExchange, logRec]
  · have h3 : RecvAnswer.result a 128 < 0 := by omega
    simp [exchange, putFrame, transportFlush, request, transportSend, transportRecv, receiveReply, hs, hq, h1, h2, h, h3, failExchange, logRec]

/-! ## Reads of a reply -/

/-- The characters of a field inside a reply that RXBUF holds are what a read of it gives. -/
theorem readBytes_reply {s : State} {reply : List Byte} {off len : Nat} (h : ∀ i, Memory.read s.rx i = reply[i]?)
    (hl : off + len ≤ reply.length) : readBytes .rx off len s = ((reply.drop off).take len, s) := by
  have hlen : ((reply.drop off).take len).length = len := by simp; omega
  have := readBytes_held (b := .rx) (off := off) (bs := (reply.drop off).take len) (s := s) fun i hi => by
    rw [hlen] at hi
    rw [State.buf, h, List.getElem?_take_of_lt hi, List.getElem?_drop]
  rwa [hlen] at this

/-- A hex field inside a reply that RXBUF holds. -/
theorem readHex_reply {s : State} {reply : List Byte} {off len : Nat} (h : ∀ i, Memory.read s.rx i = reply[i]?)
    (hl : off + len ≤ reply.length) : readHex off len s = hexval ((reply.drop off).take len) s := by
  simp [readHex, readBytes_reply h hl]

/-- A two-character field of hex digits is a byte, so that taking it mod 256 changes nothing. -/
theorem readHexByte_reply {s : State} {reply : List Byte} {off : Nat} (h : ∀ i, Memory.read s.rx i = reply[i]?)
    (hl : off + 2 ≤ reply.length) :
    readHexByte off s = ((hexval ((reply.drop off).take 2) s).1 % 256, (hexval ((reply.drop off).take 2) s).2) := by
  simp [readHexByte, readHex_reply h hl]

/-- A reply that is long enough and whose return code is 0 is accepted (41_codec.md R107). -/
theorem validate_reply {s : State} {reply : List Byte} {m : Nat} (h : ∀ i, Memory.read s.rx i = reply[i]?)
    (hn : s.rxlen.toInt = reply.length) (hm : m ≤ reply.length) (h9 : 9 ≤ reply.length)
    (hrc : parseHex ((reply.drop 7).take 2) = some 0) :
    validate m true s = (.ok, { s with rc := 0, result := BitVec.ofNat 64 reply.length }) := by
  have h1 : ¬ s.rxlen.toInt < 0 := by omega
  have h2 : ¬ s.rxlen.toInt = 0 := by omega
  have h4 : readHex 7 2 s = (0, s) := by
    rw [readHex_reply h h9, hexval_parsed s (by simp) hrc]
  unfold validate
  simp only [h1, h2, if_false, h4]
  rw [hn, ofInt_count]
  simp [hm, h9]

/-- Whatever the transport answers, a receive leaves RXLEN −1 or 0 and nothing in RXBUF, or a reply that RXBUF holds and RXLEN counts (43_exchange_dispatch.md R150). -/
theorem receiveReply_received (s : State) :
    ((receiveReply s).rxlen = -1 ∧ (receiveReply s).rx = []) ∨ ((receiveReply s).rxlen = 0 ∧ (receiveReply s).rx = [])
    ∨ ∃ reply : List Byte, 1 ≤ reply.length ∧ reply.length ≤ 128 ∧ (∀ i, Memory.read (receiveReply s).rx i = reply[i]?)
      ∧ (receiveReply s).rxlen = BitVec.ofNat 16 reply.length := by
  unfold receiveReply
  dsimp only
  split
  · exact .inr (.inl ⟨rfl, rfl⟩)
  split
  · exact .inl ⟨rfl, rfl⟩
  · rename_i h0 h1
    cases hq : (transportRecv 128 s).1 with
    | timeout => rw [hq] at h0; exact absurd rfl h0
    | ioError k => rw [hq] at h1; exact absurd (show RecvAnswer.result (.ioError k) 128 < 0 by simp [RecvAnswer.result]; omega) h1
    | bytes b rest =>
      refine .inr (.inr ⟨(b :: rest).take 128, by simp, by simp, fun i => Memory.read_writeAll_nil _ _, ?_⟩)
      have hc : RecvAnswer.result (.bytes b rest) 128 = ((((b :: rest).take 128).length : Nat) : Int) := by
        simp [RecvAnswer.result]
        omega
      simp only [hc, ofInt_count]

/-- Whatever the transport answers, an exchange leaves RXLEN −1 or 0 and nothing in RXBUF, or a reply that RXBUF holds and RXLEN counts. -/
theorem exchange_received (c p : List Byte) (s : State) :
    ((exchange c p s).rxlen = -1 ∧ (exchange c p s).rx = []) ∨ ((exchange c p s).rxlen = 0 ∧ (exchange c p s).rx = [])
    ∨ ∃ reply : List Byte, 1 ≤ reply.length ∧ reply.length ≤ 128 ∧ (∀ i, Memory.read (exchange c p s).rx i = reply[i]?)
      ∧ (exchange c p s).rxlen = BitVec.ofNat 16 reply.length := by
  unfold exchange
  dsimp only
  split
  · exact .inr (.inl ⟨rfl, rfl⟩)
  split
  · exact .inl ⟨rfl, rfl⟩
  · exact receiveReply_received _

/-! ## Acceptance without a reply -/

/-- A reply of 0 bytes is a TIMEOUT, logged (41_codec.md R107). -/
theorem accept_timeout {s : State} (h : s.rxlen = 0) (m : Nat) (k : Bool) : accept m k s = (.timeout, logRec .rxTimeout 0 s) := by
  have hn : s.rxlen.toInt = 0 := by rw [h]; rfl
  simp [accept, validate, hn]

/-- A failed exchange is an IO_ERROR, logged (41_codec.md R107). -/
theorem accept_ioError {s : State} (h : s.rxlen = -1) (m : Nat) (k : Bool) :
    accept m k s = (.ioError, logRec .rxIoerr (-1) s) := by
  have hn : s.rxlen.toInt = -1 := by rw [h]; rfl
  simp [accept, validate, hn]

end Sys2Proof.Machine
end

