-- ==== Sys2Proof/Machine/HostProgram.lean ====
section
/-! DEFINITION. The assembler's pseudo-instructions (30_encoding.md R76) and the host program notation (R77), as the command words and turns they stand for. -/

namespace Sys2Proof.Machine

/-- The operand of `EXECUTE <command name>` (30_encoding.md R76): any name but the four is 255. -/
def commandIndex (name : String) : Nat :=
  if name = "test.battery.start" then 0
  else if name = "test.battery.stop" then 1
  else if name = "load.on" then 2
  else if name = "load.off" then 3
  else 255

/-- The pseudo-instructions of 30_encoding.md R76. FRAMECHK's operand is TXLEN. -/
inductive Pseudo where
  | executeNamed (name : String)
  | valcmd
  | valprobe
  | framechk (txlen : Nat)
  deriving DecidableEq, Repr

/-- The command a pseudo-instruction stands for (30_encoding.md R76). -/
def expand : Pseudo → Instr
  | .executeNamed name => .execute (commandIndex name)
  | .valcmd => .validate 13
  | .valprobe => .validate 35
  | .framechk txlen => .pchk .tx 1 (txlen - 6)

/-- `WR <reg>, <value>` (30_encoding.md R77). -/
def hostWr (addr : BitVec 12) (v : Word) : List Turn := [.hostWrite 32 addr v]

/-- `RD <reg>` (30_encoding.md R77). -/
def hostRd (addr : BitVec 12) : List Turn := [.hostRead 32 addr]

/-- `CMD <command line>` (30_encoding.md R77): the command word written to CMD. -/
def hostCmd (i : Instr) : List Turn := [.hostWrite 32 0x000 (encode i)]

/-- `WAIT` (30_encoding.md R77): the block takes its step, and STATUS is read with DONE = 1. -/
def hostWait : List Turn := [.block, .hostRead 32 statusAddr]

/-- The word of up to four bytes, little-endian, missing bytes 0x00 (30_encoding.md R77, 20_memory.md R53). -/
def wordOfBytes (bs : List Byte) : Word :=
  bs.getD 3 0 ++ bs.getD 2 0 ++ bs.getD 1 0 ++ bs.getD 0 0

/-- Whole-word writes of the bytes `bs` from the aligned address `addr` on, `n` words. -/
def hostWords (n : Nat) (addr : BitVec 12) (bs : List Byte) : List Turn :=
  match n with
  | 0 => []
  | n + 1 => .hostWrite 32 addr (wordOfBytes bs) :: hostWords n (addr + 4) (bs.drop 4)

/-- `WRBUF <buf>, <index>, "<text>"` (30_encoding.md R77) into the window at `base`: whole words; bytes of a partly covered word that the text does not give are 0x00. -/
def hostWrbuf (base : BitVec 12) (index : Nat) (text : List Byte) : List Turn :=
  let padded := List.replicate (index % 4) 0 ++ text
  hostWords ((padded.length + 3) / 4) (base + BitVec.ofNat 12 (index - index % 4)) padded

end Sys2Proof.Machine
end

