-- ==== Sys2Proof/Tests/Slice0.lean ====
section
/-! SUPPORT. Tests. Their expected values are the spec's: the encodings of 30_encoding.md R73 and the vectors of 95_test_vectors.md, under the illustrative configuration of its section 0 (not claimed of the device). The last part shows, for every statement with hypotheses, a state and operands that meet them. -/

namespace Sys2Proof.Machine.Tests

open Sys2Proof Sys2Proof.Machine Sys2Proof.Config

/-! ## Helpers -/

/-- The ASCII bytes of a text. -/
def text (s : String) : List Byte := s.toList.map (fun c => BitVec.ofNat 8 c.toNat)

/-- A frame's text and the end marker 0x0D. -/
def frame (s : String) : List Byte := text s ++ [0x0D]

/-- Four characters as a register holds them. -/
def reg4 (s : String) : BitVec 32 := wordOfBytes (text s)

/-- Two characters as a register holds them. -/
def reg2 (s : String) : BitVec 16 := (wordOfBytes (text s)).setWidth 16

/-- Two ASCII characters of the configuration. -/
def ascii2 (a b : Char) : Ascii2 := ⟨BitVec.ofNat 7 a.toNat, BitVec.ofNat 7 b.toNat⟩

/-- Four ASCII characters of the configuration. -/
def ascii4 (a b c d : Char) : Ascii4 :=
  ⟨BitVec.ofNat 7 a.toNat, BitVec.ofNat 7 b.toNat, BitVec.ofNat 7 c.toNat, BitVec.ofNat 7 d.toNat⟩

/-- REQ_PAYLOAD(k) = "". -/
def noPayload : Payload := { len := 0, chars := Vector.replicate 110 0 }

/-- The illustrative configuration of 95_test_vectors.md section 0. -/
def cfg : Params where
  soiChar := 0x7E
  eoiChar := 0x0D
  protoVer := ascii2 '2' '1'
  addrDefault := ascii2 '0' '1'
  cidAnalog := ascii4 '2' 'A' '4' '2'
  cidOnoff := ascii4 '2' 'A' '4' '3'
  cidWarning := ascii4 '2' 'A' '4' '4'
  cidRemote := ascii4 '2' 'A' '4' '5'
  cidGetsys := ascii4 '2' 'A' '4' '7'
  cidVendor := ascii4 '2' 'A' '5' '1'
  reqAnalog := noPayload
  reqOnoff := noPayload
  reqWarning := noPayload
  reqGetsys := noPayload
  reqVendor := noPayload
  cmdCode0 := ascii4 '1' '0' '0' '0'
  cmdCode1 := ascii4 '1' '0' '0' '1'
  cmdCode3 := ascii4 '2' '0' '0' '3'
  dataflagOff := 0
  flagPriority := .warnFirst
  onoffLayout := { psrc := 2, rsrc := 4, chg := 6, test := 8 }
  statusMapP :=
    [(0x00, { onLine := true, onBattery := false, bypass := false }),
     (0x01, { onLine := false, onBattery := true, bypass := false })]
  statusMapR :=
    [(0x00, { onLine := false, onBattery := false, bypass := false }),
     (0x02, { onLine := false, onBattery := false, bypass := true })]
  chgMap := { resting := 0x00, charging := 0x01, discharging := 0x02 }
  testMap := [(0x00, .idle), (0x01, .inProgress)]
  analogLayout :=
    { inputVoltage := 2, outputVoltage := 6, outputCurrent := 10, batteryVoltage := 14, outputFrequency := 18
      inputFrequency := 22, realpower := 26, apparentPower := 30, runtimeLow := 34 }
  sysLayout :=
    { nomv := .four 2, nomf := .four 6, byph := .four 10, byphe := .two 14, bypl := .four 16, byple := .two 20, tint := .two 22 }
  sysScale := { nomv := .div100, nomf := .div100, byph := .div100, bypl := .div100 }
  warnBase := 2
  warnName :=
    { slots := ((((Vector.replicate 26 (some "a fault")).set 0 none).set 5 (some "Rectifier Failure")).set 24 none).set 25 none }
  verifyRx := false
  probeChecksRc := true
  nameOff := 15
  nameCapOver11 := 0

/-- The block after reset, with that configuration. -/
def s0 : State := State.resetOf cfg

/-- The block in RUNNING at a phase. -/
def running (ph : Phase) : State := { s0 with mode := .running, phase := ph }

/-- The block after a fatal probe. -/
def fatal : State := { s0 with mode := .fatal }

/-- A received frame in RXBUF, and RXLEN. -/
def received (bs : List Byte) (n : BitVec 16) (s : State) : State := { s with rx := Memory.writeAll [] 0 bs, rxlen := n }

/-- A receive answer of the bytes `bs`. -/
def replyOf (bs : List Byte) : RecvAnswer :=
  match bs with
  | [] => .timeout
  | b :: rest => .bytes b rest

/-- The transport's answers to come. -/
def answers (sends : List Int) (recvs : List RecvAnswer) (s : State) : State :=
  { s with transport := { s.transport with sendAnswers := sends, recvAnswers := recvs } }

/-- The state a command leaves. -/
def after (i : Instr) (s : State) : State :=
  match exec i s with
  | .next t => t
  | .fault _ => s
  | .refused _ => s

/-- The state a step leaves. -/
def afterStep (s : State) : State :=
  match step s with
  | .next t => t
  | .fault _ => s
  | .refused _ => s

/-! ## WellFormed refuses what no word can hold (30_encoding.md R72) -/

theorem test_wf_lchk : (Instr.lchk 4096).wf = false ∧ (Instr.lchk 4095).wf = true := by decide
theorem test_wf_pchk_off : (Instr.pchk .rx 256 0).wf = false ∧ (Instr.pchk .rx 255 255).wf = true := by decide
theorem test_wf_pchk_len : (Instr.pchk .tx 0 256).wf = false := by decide
theorem test_wf_validate : (Instr.validate 256).wf = false ∧ (Instr.validate 255).wf = true := by decide
theorem test_wf_hex2val_off : (Instr.hex2val 256 0).wf = false ∧ (Instr.hex2val 255 255).wf = true := by decide
theorem test_wf_hex2val_len : (Instr.hex2val 0 256).wf = false := by decide
theorem test_wf_hex2str_off : (Instr.hex2str 256 0 0).wf = false ∧ (Instr.hex2str 255 255 255).wf = true := by decide
theorem test_wf_hex2str_len : (Instr.hex2str 0 256 0).wf = false := by decide
theorem test_wf_hex2str_cap : (Instr.hex2str 0 0 256).wf = false := by decide
theorem test_wf_execute : (Instr.execute 256).wf = false ∧ (Instr.execute 255).wf = true := by decide

/-! ## Decoding words written out from the spec (30_encoding.md R73, 95_test_vectors.md section 2) -/

theorem test_decode_build : decode 0b00000000000000000000000000000001 = .ok .build := by decide
theorem test_decode_lchk : decode 0x00001402 = .ok (.lchk 0x014) ∧ decode 0x000FFF02 = .ok (.lchk 0xFFF) := by decide
theorem test_decode_pchk : decode 0x00100103 = .ok (.pchk .tx 1 16) ∧ decode 0x01800003 = .ok (.pchk .rx 0 128) := by decide
theorem test_decode_validate : decode 0x00000D04 = .ok (.validate 13) ∧ decode 0x00002304 = .ok (.validate 35) := by decide
theorem test_decode_chklen : decode 0x00000005 = .ok .chklen := by decide
theorem test_decode_chksum : decode 0x00000006 = .ok .chksum := by decide
theorem test_decode_hex2val : decode 0x00020D07 = .ok (.hex2val 13 2) ∧ decode 0x00040907 = .ok (.hex2val 9 4) := by decide
theorem test_decode_hex2str :
    decode 0x0B140F08 = .ok (.hex2str 15 20 11) ∧ decode 0x100C0F08 = .ok (.hex2str 15 12 16) := by decide
theorem test_decode_exchange : decode 0x00000009 = .ok .exchange := by decide
theorem test_decode_execute : decode 0x0000020A = .ok (.execute 2) ∧ decode 0x0000FF0A = .ok (.execute 255) := by decide
theorem test_decode_tick : decode 0x0000000B = .ok .tick := by decide
theorem test_decode_probe : decode 0x0000000C = .ok .probe := by decide
theorem test_decode_undefined_opcodes :
    decode 0x00000000 = .illegalOpcode 0x00 ∧ decode 0x0000000D = .illegalOpcode 0x0D
    ∧ decode 0x000000FF = .illegalOpcode 0xFF := by decide
theorem test_decode_reserved_bits :
    decode 0x80000001 = .reservedBits 0x01 ∧ decode 0x0000010B = .reservedBits 0x0B ∧ decode 0x00F00002 = .reservedBits 0x02
    ∧ decode 0x02000003 = .reservedBits 0x03 ∧ decode 0x01000007 = .reservedBits 0x07
    ∧ decode 0x0001000A = .reservedBits 0x0A := by decide
theorem test_encode_words :
    encode (.pchk .rx 1 34) = 0x01220103 ∧ encode (.hex2str 15 20 11) = 0x0B140F08 ∧ encode (.lchk 0xFFF) = 0x000FFF02 := by
  decide
/-- The pseudo-instructions of 30_encoding.md R76. -/
theorem test_pseudo :
    expand (.executeNamed "load.on") = .execute 2 ∧ expand (.executeNamed "shutdown.return") = .execute 255
    ∧ expand .valprobe = .validate 35 ∧ expand (.framechk 22) = .pchk .tx 1 16 := by decide
/-- The very next step after reset runs a word that was placed for it. -/
theorem test_fetch : (afterStep (State.reset.withFetchWord 32 0x00000402)).result = 0xC004 := by decide

/-! ## The commands (95_test_vectors.md sections 3 to 6) -/

/-- Program A's BUILD. -/
def buildState : State := { s0 with cid := reg4 "2A45", pllen := 4, pl := Memory.writeAll [] 0 (text "2001") }

theorem test_build :
    (after .build buildState).tx = Memory.writeAll [] 0 (frame "~21012A45C0042001FCC6")
    ∧ (after .build buildState).txlen = 22 := by decide +kernel
theorem test_build_too_long : (after .build { s0 with pllen := 111 }).outcome = .badArgument := by decide
theorem test_lchk_carry : (after (.lchk 0x06A) s0).result = 0x006A := by decide
theorem test_lchk_max : (after (.lchk 0xFFF) s0).result = 0x3FFF := by decide
theorem test_pchk :
    (after (.pchk .tx 1 16) { s0 with tx := Memory.writeAll [] 0 (frame "~21012A45C0042001FCC6") }).result = 0xFCC6 := by
  decide +kernel
theorem test_pchk_past_end : (after (.pchk .tx 120 9) s0).outcome = .badArgument := by decide
theorem test_validate_rejected :
    (after (.validate 13) (received (frame "~21012A030000FDA6") 18 s0)).outcome = .rejected
    ∧ (after (.validate 13) (received (frame "~21012A030000FDA6") 18 s0)).result = 3 := by decide +kernel
theorem test_validate_short : (after (.validate 0) (received (frame "~21012A000000FDA9") 8 s0)).outcome = .shortRead := by
  decide +kernel
theorem test_chklen_lowercase : (after .chklen (received (text "~21012A00b014") 13 s0)).result = 0x14 := by decide +kernel
theorem test_chklen_bad :
    (after .chklen (received (text "~21012A00A014") 13 s0)).outcome = .badLchk
    ∧ (after .chklen (received (text "~21012A00A014") 13 s0)).log = [{ code := .badLchk, arg := 0xA014 }] := by decide +kernel
theorem test_chksum_no_end_marker :
    (after .chksum (received (frame "~21012A000000FDA9") 17 s0)).outcome = .ok
    ∧ (after .chksum (received (frame "~21012A000000FDA9") 17 s0)).result = 0xFDA9 := by decide +kernel
theorem test_chksum_bad : (after .chksum (received (frame "~21012A000000FDA8") 18 s0)).outcome = .badChk := by decide +kernel
theorem test_hex2val_widest :
    (after (.hex2val 13 15) (received (text "~21012A00B014FFFFFFFFFFFFFFF") 28 s0)).result = 0x0FFFFFFFFFFFFFFF := by
  decide +kernel
theorem test_hex2val_too_long : (after (.hex2val 200 16) { s0 with result := 7 }).result = 0 := by decide
theorem test_hex2str_space :
    (after (.hex2str 15 20 11) (received (frame "~21012A0090160047584531303030202020F945") 40 s0)).str
      = Memory.writeAll [] 0 (text "GXE1000" ++ [0x00]) := by decide +kernel
theorem test_hex2str_capacity :
    (after (.hex2str 0 12 4) (received (text "414243444546") 12 s0)).str = Memory.writeAll [] 0 (text "ABC" ++ [0x00]) := by
  decide +kernel
/-- A send that returns fewer bytes than the frame counts as sent. -/
theorem test_exchange_partial_send :
    (after .exchange (answers [5] [replyOf (frame "~21012A000000FDA9")] { s0 with cid := reg4 "2A42" })).rxlen = 18 := by
  decide +kernel
/-- A failed exchange: R150's records, and no byte of RXBUF keeps a value (70_reset_and_hazards.md R264). -/
theorem test_exchange_io_error :
    (after .exchange (answers [18] [.ioError 6] { s0 with cid := reg4 "2A42" })).rxlen = -1
    ∧ (after .exchange (answers [18] [.ioError 6] (received (frame "~2101") 6 s0))).rx = []
    ∧ (after .exchange (answers [18] [.ioError 6] { s0 with cid := reg4 "2A42" })).log
      = [{ code := .rxIoerr, arg := -7 }] := by decide +kernel

/-- 95_test_vectors.md section 5.2, second row. -/
def executeState : State :=
  answers [0, 22, 22] [replyOf (frame "~21012A030000FDA6"), replyOf (frame "~21012A000000FDA9")] (running .warning)

theorem test_execute_third_attempt :
    (after (.execute 2) executeState).outcome = .ok ∧ (after (.execute 2) executeState).attempts = 3
    ∧ (after (.execute 2) executeState).phase = .sysparam := by decide +kernel
/-- 95_test_vectors.md section 5.2, third row. -/
theorem test_execute_failed :
    (after (.execute 0) (answers [22, -5, 22] [.timeout, replyOf (text "~21012A00000")] (running .warning))).result = 3
    ∧ (after (.execute 0) (answers [22, -5, 22] [.timeout, replyOf (text "~21012A00000")] (running .warning))).outcome
      = .commandFailed := by decide +kernel
/-- 95_test_vectors.md section 6.2, fourth row. -/
theorem test_tick_onoff :
    (after .tick (answers [18] [replyOf (frame "~21012A00B01411010202010000000000F9CA")] (running .onoff))).phase = .warning
    ∧ (after .tick (answers [18] [replyOf (frame "~21012A00B01411010202010000000000F9CA")] (running .onoff))).store.status
      = { onLine := false, onBattery := true, bypass := true } := by decide +kernel
/-- 95_test_vectors.md section 6.5, third row. -/
theorem test_tick_warning :
    (after .tick (answers [18]
      [replyOf (frame "~21012A007036010701F00003040000000000000000000000000000000000000202F34F")] (running .warning))).store.events
      = [.alarmInit, .alarmSet 1, .alarmSet 2, .alarmSet 4, .alarmCommit, .markFresh] := by decide +kernel
/-- 95_test_vectors.md section 5.3: 35 bytes are enough. -/
theorem test_probe_35_bytes :
    (after .probe (answers [18] [replyOf (text "~21012A0090160047584531303030202020")] s0)).mode = .running
    ∧ (after .probe (answers [18] [replyOf (text "~21012A0090160047584531303030202020")] s0)).store.events
      = [.fact .vendorName (.text (text "GXE1000"))] := by decide +kernel
/-- 95_test_vectors.md section 5.3: 34 bytes are not. -/
theorem test_probe_34_bytes :
    (after .probe (answers [18, 18, 18]
      [replyOf (text "~21012A009016004758453130303020202"), replyOf (text "~21012A009016004758453130303020202"),
       replyOf (text "~21012A009016004758453130303020202")] s0)).mode = .fatal := by decide +kernel

/-! ## The host interface (95_test_vectors.md section 7) -/

theorem test_host_plbuf_last_word :
    (hostWrite 32 0x36C 0x44434241 s0).pl = [(108, 0x41), (109, 0x42)]
    ∧ (hostRead 32 0x36C (hostWrite 32 0x36C 0x44434241 s0)).hostData = 0x00004241 := by decide
theorem test_host_address_fixed_in_running : (hostWrite 32 0x01C 0x00003330 (running .onoff)).adr = reg2 "01" := by decide +kernel
theorem test_host_misaligned : (hostRead 32 0x002 s0).buserr = true ∧ (hostRead 32 0x040 s0).buserr = true := by decide

/-! ## Witnesses: a state and operands that meet the hypotheses of each statement, each clause at a boundary -/

/-- The block with a word pending. -/
def busyWith (w : Word) : State := { s0 with busy := true, pending := w }

theorem witness_ResetLeavesTheResetValues : ∃ t s : State, t = blockReset s ∧ s.mode = .fatal := ⟨_, fatal, rfl, rfl⟩

theorem witness_StepRunsTheDecodedCommand :
    (busyWith 0x00000009).turns = [] ∧ (busyWith 0x00000009).busy = true ∧ decode (busyWith 0x00000009).pending = .ok .exchange
    ∧ ({ s0 with turns := [.block, .reset] } : State).turns = .block :: [.reset] ∧ s0.busy = false := by decide

theorem witness_StepTakesTheHostsTurn :
    ({ s0 with turns := [.hostRead 32 0x004] } : State).turns = .hostRead 32 0x004 :: []
    ∧ ({ s0 with turns := [.hostWrite 32 0x000 9] } : State).turns = .hostWrite 32 0x000 9 :: []
    ∧ ({ s0 with turns := [.reset] } : State).turns = .reset :: [] := by decide

theorem witness_DecodeOfEncode :
    (Instr.lchk 4095).wf = true ∧ (Instr.pchk .rx 255 255).wf = true ∧ (Instr.hex2str 255 255 255).wf = true := by decide

theorem witness_EncodeOfDecode :
    decode 0x01FFFF03 = .ok (.pchk .rx 255 255) ∧ decode 0xFFFFFF08 = .ok (.hex2str 255 255 255) := by decide

theorem witness_IllegalWordsFinishIllegalCommand :
    (busyWith 0x00000000).busy = true ∧ (busyWith 0x00000000).pending.toNat % 256 = 0
    ∧ 0x0D ≤ (busyWith 0x0000000D).pending.toNat % 256 ∧ 0x0D ≤ (busyWith 0x000000FF).pending.toNat % 256
    ∧ (firstZeroBit 0x02 ≤ 20 ∧ (0x00100002 : Word).getLsbD 20 = true) ∧ (firstZeroBit 0x03 ≤ 25 ∧ (0x02000003 : Word).getLsbD 25 = true)
    ∧ (1 ≤ (busyWith 0xFFFFFF08).pending.toNat % 256 ∧ (busyWith 0xFFFFFF08).pending.toNat % 256 ≤ 0x0C
      ∧ ∀ b, b < 32 → firstZeroBit 0x08 ≤ b → (0xFFFFFF08 : Word).getLsbD b = false)
    ∧ (1 ≤ (busyWith 0x01FFFF03).pending.toNat % 256 ∧ ∀ b, b < 32 → firstZeroBit 0x03 ≤ b → (0x01FFFF03 : Word).getLsbD b = false) := by
  decide

theorem witness_DisallowedCommandsFinishWrongMode :
    modeRuns s0.mode .tick = false ∧ modeRuns s0.mode (.execute 2) = false ∧ modeRuns (running .onoff).mode .probe = false
    ∧ modeRuns fatal.mode (.lchk 4) = false := by decide

theorem witness_FatalIsForGood :
    fatal.mode = .fatal ∧ takeTurn .block fatal = .next fatal ∧ takeTurn .reset fatal = .next (blockReset fatal) :=
  ⟨rfl, rfl, rfl⟩

/-- A reply of 35 bytes to a PROBE. -/
def vendorReply : List Byte := 0x7E :: text "21012A0090160047584531303030202020"

/-- The block before a PROBE that succeeds. -/
def probeState : State := answers [18] [.bytes 0x7E (text "21012A0090160047584531303030202020")] s0

theorem witness_ModeChangesOnlyByProbeAndReset :
    (after .probe probeState).mode = .running ∧ probeState.mode = .uninit
    ∧ (after .probe (answers [0, 0, 0] [] s0)).mode = .fatal
    ∧ (afterStep { fatal with turns := [.reset] }).mode ≠ fatal.mode
    ∧ (afterStep { probeState with busy := true, pending := 0x0000000C }).mode ≠ probeState.mode := by decide +kernel

theorem witness_PhaseChangesOnlyOnSuccess :
    (after (.execute 2) executeState).phase ≠ executeState.phase
    ∧ (after .probe { probeState with phase := .onoff }).phase ≠ .onoff
    ∧ (after .tick (answers [18] [replyOf (frame "~21012A00B01411010202010000000000F9CA")] (running .onoff))).phase ≠ .onoff
    ∧ (afterStep { executeState with busy := true, pending := 0x0000020A }).phase ≠ executeState.phase
    ∧ (afterStep { executeState with turns := [.reset] }).phase ≠ executeState.phase := by decide +kernel

theorem witness_OutcomesOfEachCommand :
    modeRuns s0.mode .build = true ∧ modeRuns s0.mode .tick = false ∧ exec .build s0 = .next (after .build s0)
    ∧ (busyWith 0x0000000D).busy = true ∧ decode (busyWith 0x0000000D).pending = .illegalOpcode 0x0D
    ∧ blockStep (busyWith 0x0000000D) = .next (afterStep (busyWith 0x0000000D)) := by
  refine ⟨rfl, rfl, rfl, rfl, rfl, rfl⟩

theorem witness_EveryFailureIsLogged :
    exec .tick s0 = .next (after .tick s0) ∧ (after .tick s0).outcome ≠ .ok := ⟨rfl, by decide⟩

theorem witness_NoCommandChangesAddrVerCidPllenOrPlbuf :
    exec .build { s0 with nonhex := true } = .next (after .build { s0 with nonhex := true })
    ∧ ({ s0 with nonhex := true } : State).nonhex = true := ⟨rfl, rfl⟩

theorem witness_OnlyPortCommandsUseThePorts :
    exec (.lchk 4) s0 = .next (after (.lchk 4) s0) ∧ (Instr.lchk 4 ≠ .exchange ∧ (∀ k, Instr.lchk 4 ≠ .execute k))
    ∧ (Instr.execute 4 ≠ .tick ∧ Instr.execute 4 ≠ .probe) := by
  refine ⟨rfl, ⟨by decide, fun k => by simp⟩, by decide⟩

theorem witness_HexvalRecoversRenderedNumbers :
    (1 ≤ 15 ∧ 15 ≤ 15 ∧ 16 ^ 15 - 1 < 16 ^ 15) ∧ (1 ≤ 1 ∧ 1 ≤ 15 ∧ 15 < 16 ^ 1) ∧ 15 < (text "FFFFFFFFFFFFFFFF").length
    ∧ ((text "fffffffffffffff").length ≤ 15 ∧ parseHex (text "fffffffffffffff") = some (16 ^ 15 - 1))
    ∧ ((text "0g").length ≤ 15 ∧ parseHex (text "0g") = none) := by decide

theorem witness_FrameLayout :
    (text "2A45").length = 4 ∧ (text "21").length = 2 ∧ (text "01").length = 2 ∧ (List.replicate 110 (0x30 : Byte)).length ≤ 110 := by
  decide

theorem witness_BuildStoresTheFrame :
    s0.mode ≠ .fatal ∧ ({ s0 with pllen := 110 } : State).pllen.toNat ≤ 110 ∧ 110 < ({ s0 with pllen := 111 } : State).pllen.toNat := by
  decide

theorem witness_LchkComputesTheLengthWord : 4095 < 4096 ∧ s0.mode ≠ .fatal := by decide

theorem witness_PchkComputesThePayloadChecksum : s0.mode ≠ .fatal ∧ 0 + 128 ≤ 128 ∧ 128 < 127 + 2 := by decide

theorem witness_ValidateChecksInOrder :
    s0.mode ≠ .fatal ∧ (received [] 0xFFFF s0).rxlen.toInt < 0 ∧ (received [] 0 s0).rxlen.toInt = 0
    ∧ (0 < (received [] 12 s0).rxlen.toInt ∧ (received [] 12 s0).rxlen.toInt < (max 13 9 : Nat))
    ∧ (0 < (received [] 8 s0).rxlen.toInt ∧ (received [] 8 s0).rxlen.toInt < (max 0 9 : Nat))
    ∧ (max 13 9 : Nat) ≤ (received [] 13 s0).rxlen.toInt ∧ (max 0 9 : Nat) ≤ (received [] 9 s0).rxlen.toInt := by decide

theorem witness_ChklenChecksTheLengthField :
    s0.mode ≠ .fatal ∧ (received [] 0xFFFF s0).rxlen.toInt < 0 ∧ (received [] 0 s0).rxlen.toInt = 0
    ∧ (0 < (received [] 12 s0).rxlen.toInt ∧ (received [] 12 s0).rxlen.toInt < 13)
    ∧ 13 ≤ (received [] 13 s0).rxlen.toInt := by decide

theorem witness_ChksumChecksThePayloadChecksum :
    exec .chklen s0 = .next (after .chklen s0) ∧ (after .chklen s0).outcome ≠ .ok
    ∧ (after .chklen (received (text "~21012A00B06F") 128 s0)).result = BitVec.ofNat 64 111
    ∧ (after .chklen (received (text "~21012A00C06E") 126 s0)).outcome = .ok
    ∧ (after .chklen (received (text "~21012A00C06E") 126 s0)).result = BitVec.ofNat 64 110
    ∧ (received (text "~21012A00C06E") 126 s0).rxlen.toInt < 17 + 110
    ∧ 17 + 110 ≤ (received (text "~21012A00C06E") 127 s0).rxlen.toInt := by
  refine ⟨rfl, ?_⟩
  decide +kernel

/-- The longest frame. -/
def longestFrame : List Byte := buildFrame cfg (text "2A00") (text "21") (text "01") (List.replicate 110 0x30)

theorem witness_BuiltFramesPassBothChecks :
    s0.mode ≠ .fatal ∧ Holds (received longestFrame 127 s0).rx 0 longestFrame
    ∧ (17 + (List.replicate 110 (0x30 : Byte)).length : Nat) ≤ (received longestFrame 127 s0).rxlen.toInt := by
  unfold Holds
  decide +kernel

theorem witness_Hex2valDecodesTheField : s0.mode ≠ .fatal ∧ 15 < 16 ∧ (15 ≤ 15 ∧ 128 < 114 + 15) ∧ (15 ≤ 15 ∧ 113 + 15 ≤ 128) := by
  decide

theorem witness_Hex2strDecodesTheString :
    s0.mode ≠ .fatal ∧ (128 < 129 ∧ 128 < 127 + 2) ∧ (1 ≤ 1 ∧ 1 ≤ 128 ∧ 0 + 128 ≤ 128) ∧ (1 ≤ 128 ∧ 128 ≤ 128) := by decide

/-- A transport that lists a reply answers with it. -/
theorem answers_reply {r : Int} (hr : 0 < r) (sends : List Int) (b : Byte) (rest : List Byte) (recvs : List RecvAnswer) (s : State) :
    AnswersReply (answers (r :: sends) (.bytes b rest :: recvs) s) sends recvs ((b :: rest).take 128) :=
  ⟨r, b, rest, hr, rfl, rfl, rfl⟩

theorem witness_ExchangeReceivesTheReply :
    s0.mode ≠ .fatal ∧ ({ s0 with pllen := 110 } : State).pllen.toNat ≤ 110
    ∧ AnswersReply (answers [1] [.bytes 0x7E []] { s0 with pllen := 110 }) [] [] [0x7E] :=
  ⟨by decide, by decide, answers_reply (by decide) [] 0x7E [] [] _⟩

theorem witness_ExchangeReportsFailures :
    s0.mode ≠ .fatal ∧ 110 < ({ s0 with pllen := 111 } : State).pllen.toNat ∧ s0.pllen.toNat ≤ 110
    ∧ (answers [0] [] s0).transport.sendAnswers = 0 :: [] ∧ (answers [-1] [] s0).transport.sendAnswers = -1 :: []
    ∧ ((answers [1] [.timeout] s0).transport.recvAnswers = .timeout :: [] ∧ RecvAnswer.result .timeout 128 ≤ 0)
    ∧ RecvAnswer.result (.ioError 0) 128 = -1 := by decide

/-- A reply of 13 bytes. -/
def shortestReply : List Byte := text "1012A000000"

theorem witness_ExecuteSucceedsAtTheFirstAttempt :
    (running .warning).mode = .running ∧ (running .warning).cfg.verifyRx = false
    ∧ AnswersReply (answers [1] [.bytes 0x7E (0x32 :: shortestReply)] (running .warning)) [] []
        ((0x7E :: 0x32 :: shortestReply).take 128)
    ∧ 13 = ((0x7E :: 0x32 :: shortestReply).take 128).length
    ∧ parseHex (charsAt ((0x7E :: 0x32 :: shortestReply).take 128) 7 2) = some 0 :=
  ⟨rfl, rfl, answers_reply (by decide) [] _ _ [] _, by decide, by decide⟩

theorem witness_ExecuteRetriesAtMostThreeTimes : (running .warning).mode = .running ∧ 4 ≤ 4 ∧ 3 < 4 := by decide

theorem witness_ProbeIdentifiesTheDevice :
    probeState.mode = .uninit ∧ probeState.cfg.verifyRx = false ∧ probeState.cfg.probeChecksRc = true
    ∧ AnswersReply probeState [] [] (vendorReply.take 128) ∧ 35 = (vendorReply.take 128).length
    ∧ parseHex (charsAt (vendorReply.take 128) 7 2) = some 0 :=
  ⟨rfl, rfl, rfl, answers_reply (by decide) [] _ _ [] _, by decide, by decide⟩

theorem witness_ProbeEndsRunningOrFatal : s0.mode = .uninit := rfl

theorem witness_DataFlagOverridesTheDefault : 255 < 256 ∧ 0 < 256 := by decide

theorem witness_TickWithoutAReplyMarksStale :
    (running .analog).mode = .running
    ∧ ((answers [0] [] (running .analog)).transport.sendAnswers = 0 :: [] ∧ (0 : Int) ≤ 0)
    ∧ ((answers [-1] [] (running .analog)).transport.sendAnswers = -1 :: [] ∧ (-1 : Int) ≤ 0)
    ∧ ((answers [1] [.timeout] (running .analog)).transport.sendAnswers = 1 :: [] ∧ (0 : Int) < 1
      ∧ (answers [1] [.timeout] (running .analog)).transport.recvAnswers = .timeout :: [] ∧ RecvAnswer.result .timeout 128 ≤ 0)
    ∧ RecvAnswer.result (.ioError 0) 128 = -1 := by decide

theorem witness_FailedTickOnlyMarksStale :
    (answers [0] [] (running .analog)).mode = .running
    ∧ exec .tick (answers [0] [] (running .analog)) = .next (after .tick (answers [0] [] (running .analog)))
    ∧ (after .tick (answers [0] [] (running .analog))).outcome ≠ .ok := by
  refine ⟨rfl, rfl, by decide +kernel⟩

/-- A reply of n bytes with return code rc and payload characters "0". -/
def dataReply (rc : String) (n : Nat) : List Byte := text "21012A" ++ text rc ++ List.replicate (n - 9) 0x30

theorem witness_TickRejectsBadReplies :
    (running .onoff).mode = .running
    ∧ AnswersReply (answers [18] [.bytes 0x7E (dataReply "00" 32)] (running .onoff)) [] [] ((0x7E :: dataReply "00" 32).take 128)
    ∧ ((0x7E :: dataReply "00" 32).take 128).length = 32
    ∧ AnswersReply (answers [18] [.bytes 0x7E (dataReply "04" 33)] (running .onoff)) [] [] ((0x7E :: dataReply "04" 33).take 128)
    ∧ ((0x7E :: dataReply "04" 33).take 128).length = 33
    ∧ parseHex (charsAt ((0x7E :: dataReply "04" 33).take 128) 7 2) = some 4 :=
  ⟨rfl, answers_reply (by decide) [] _ _ [] _, by decide +kernel, answers_reply (by decide) [] _ _ [] _, by decide +kernel,
    by decide +kernel⟩

/-- What a tick's statement asks of its state and reply: phase, decided parameters, the reply of minimum length n. -/
theorem witness_tick (ph : Phase) (n : Nat) (hn : ((0x7E :: dataReply "00" n).take 128).length = n)
    (hp : parseHex (charsAt ((0x7E :: dataReply "00" n).take 128) 7 2) = some 0) :
    ∃ s : State, s.mode = .running ∧ s.phase = ph ∧ s.cfg.verifyRx = false
      ∧ AnswersReply s [] [] ((0x7E :: dataReply "00" n).take 128) ∧ n ≤ ((0x7E :: dataReply "00" n).take 128).length
      ∧ parseHex (charsAt ((0x7E :: dataReply "00" n).take 128) 7 2) = some 0 :=
  ⟨answers [18] [.bytes 0x7E (dataReply "00" n)] (running ph), rfl, rfl, rfl, answers_reply (by decide) [] _ _ [] _, hn.ge, hp⟩

theorem witness_OnoffTickPublishes :
    ∃ s : State, s.mode = .running ∧ s.phase = .onoff ∧ s.cfg.verifyRx = false
      ∧ AnswersReply s [] [] ((0x7E :: dataReply "00" 33).take 128) ∧ 33 ≤ ((0x7E :: dataReply "00" 33).take 128).length
      ∧ parseHex (charsAt ((0x7E :: dataReply "00" 33).take 128) 7 2) = some 0 :=
  witness_tick .onoff 33 (by decide +kernel) (by decide +kernel)

theorem witness_AnalogTickPublishes :
    ∃ s : State, s.mode = .running ∧ s.phase = .analog ∧ s.cfg.verifyRx = false
      ∧ AnswersReply s [] [] ((0x7E :: dataReply "00" 99).take 128) ∧ 99 ≤ ((0x7E :: dataReply "00" 99).take 128).length
      ∧ parseHex (charsAt ((0x7E :: dataReply "00" 99).take 128) 7 2) = some 0 :=
  witness_tick .analog 99 (by decide +kernel) (by decide +kernel)

theorem witness_WarningTickPublishes :
    ∃ s : State, s.mode = .running ∧ s.phase = .warning ∧ s.cfg.verifyRx = false
      ∧ AnswersReply s [] [] ((0x7E :: dataReply "00" 67).take 128) ∧ 67 ≤ ((0x7E :: dataReply "00" 67).take 128).length
      ∧ parseHex (charsAt ((0x7E :: dataReply "00" 67).take 128) 7 2) = some 0 :=
  witness_tick .warning 67 (by decide +kernel) (by decide +kernel)

/-- All seven fields, and the data flag, are "00" or "0000". -/
theorem witness_SysparamTickPublishes :
    (∃ s : State, s.mode = .running ∧ s.phase = .sysparam ∧ s.cfg.verifyRx = false
      ∧ AnswersReply s [] [] ((0x7E :: dataReply "00" 119).take 128) ∧ 119 ≤ ((0x7E :: dataReply "00" 119).take 128).length
      ∧ parseHex (charsAt ((0x7E :: dataReply "00" 119).take 128) 7 2) = some 0)
    ∧ parseHex (charsAt ((0x7E :: dataReply "00" 119).take 128) 13 2) = some 0
    ∧ (∀ k : Fin 105, parseHex (charsAt ((0x7E :: dataReply "00" 119).take 128) (13 + k) 2) = some 0)
    ∧ (∀ k : Fin 103, parseHex (charsAt ((0x7E :: dataReply "00" 119).take 128) (13 + k) 4) = some 0) :=
  ⟨witness_tick .sysparam 119 (by decide +kernel) (by decide +kernel), by decide +kernel, by decide +kernel, by decide +kernel⟩

theorem witness_SysparamTickSurvivesBadCharacters :
    ∃ s : State, s.mode = .running ∧ s.phase = .sysparam ∧ s.cfg.verifyRx = false
      ∧ AnswersReply s [] [] ((0x7E :: dataReply "00" 119).take 128) ∧ 119 ≤ ((0x7E :: dataReply "00" 119).take 128).length
      ∧ parseHex (charsAt ((0x7E :: dataReply "00" 119).take 128) 7 2) = some 0 :=
  witness_SysparamTickPublishes.1

/-- The block with VERIFY_RX true, and a 38-byte ONOFF reply whose checksum is right (95_test_vectors.md section 6.2) or wrong. -/
def verifying (checksum : String) : State :=
  answers [18] [.bytes 0x7E (text ("21012A00B01400000001000000000000" ++ checksum) ++ [0x0D])]
    { running .onoff with cfg := { cfg with verifyRx := true } }

theorem witness_VerifyingTicksCheckTheChecksums :
    (verifying "F9D1").mode = .running ∧ (verifying "F9D1").cfg.verifyRx = true
    ∧ AnswersReply (verifying "F9D1") [] [] ((0x7E :: (text "21012A00B01400000001000000000000F9D1" ++ [0x0D])).take 128)
    ∧ 33 ≤ ((0x7E :: (text "21012A00B01400000001000000000000F9D1" ++ [0x0D])).take 128).length
    ∧ parseHex (charsAt ((0x7E :: (text "21012A00B01400000001000000000000F9D1" ++ [0x0D])).take 128) 7 2) = some 0
    ∧ parseHex (charsAt ((0x7E :: (text "21012A00B01400000001000000000000F9D1" ++ [0x0D])).take 128) 9 4) = some 0xB014
    ∧ (0xB014 / 4096 + 0xB014 % 16 + 0xB014 / 16 % 16 + 0xB014 / 256 % 16) % 16 = 0
    ∧ parseHex (charsAt ((0x7E :: (text "21012A00B01400000001000000000000F9D1" ++ [0x0D])).take 128) 33 4) = some 0xF9D1
    ∧ (after .tick (verifying "F9D1")).outcome = .ok ∧ (after .tick (verifying "F9D2")).outcome = .badChk :=
  ⟨rfl, rfl, answers_reply (by decide) [] _ _ [] _, by decide +kernel, by decide +kernel, by decide +kernel, by decide,
    by decide +kernel, by decide +kernel, by decide +kernel⟩

theorem witness_StaleReplyBytesNeverMatter :
    (Instr.execute 3 = .tick ∨ Instr.execute 3 = .exchange ∨ Instr.execute 3 = .probe ∨ ∃ k, Instr.execute 3 = .execute k)
    ∧ exec (.execute 2) executeState = .next (after (.execute 2) executeState)
    ∧ modeRuns executeState.mode (.execute 2) = true ∧ (2 < 4 ∧ 3 < 4) ∧ ({ s0 with pllen := 110 } : State).pllen.toNat ≤ 110 :=
  ⟨.inr (.inr (.inr ⟨3, rfl⟩)), rfl, rfl, by decide, by decide⟩

theorem witness_EveryStepKeepsTheInvariant : ∃ t, Inv s0 ∧ step s0 = .next t := by
  refine ⟨afterStep s0, ?_, rfl⟩
  exact { buffers := fun b => by cases b <;> simp [bufferOk, State.buf, s0, State.resetOf]
          handshake := by decide
          version := rfl
          txlen := .inl rfl
          strlen := by decide
          attempts := by decide
          phase := .inr rfl
          dataflag := .inr rfl
          unprobed := .inr rfl }

theorem witness_CmdWriteIssuesOrOverruns : s0.busy = false ∧ (busyWith 9).busy = true := by decide

theorem witness_HostAccessesWhileBusy :
    ((busyWith 9).busy = true ∧ (0x47C : BitVec 12).toNat % 4 = 0 ∧ Mapped (0x47C : BitVec 12).toNat ∧ (0x47C : BitVec 12) ≠ 0x004)
    ∧ ¬(16 = 32 ∧ (0x004 : BitVec 12).toNat % 4 = 0 ∧ Mapped (0x004 : BitVec 12).toNat)
    ∧ ¬(32 = 32 ∧ (0x480 : BitVec 12).toNat % 4 = 0 ∧ Mapped (0x480 : BitVec 12).toNat) := by
  unfold Mapped
  decide

theorem witness_BadHostAccessesSetBuserr :
    s0.busy = false ∧ ¬(32 = 32 ∧ (0x040 : BitVec 12).toNat % 4 = 0 ∧ Mapped (0x040 : BitVec 12).toNat)
    ∧ ¬(32 = 32 ∧ (0x006 : BitVec 12).toNat % 4 = 0 ∧ Mapped (0x006 : BitVec 12).toNat)
    ∧ ¬(16 = 32 ∧ (0x008 : BitVec 12).toNat % 4 = 0 ∧ Mapped (0x008 : BitVec 12).toNat)
    ∧ ((0x03C : BitVec 12).toNat % 4 = 0 ∧ Mapped (0x03C : BitVec 12).toNat ∧ (0x03C : BitVec 12) ≠ 0x004) := by
  unfold Mapped
  decide

theorem witness_HostWritesOperandRegisters : s0.busy = false ∧ s0.mode = .uninit ∧ (running .onoff).mode ≠ .uninit := by decide

theorem witness_ReadOnlyRegistersIgnoreWrites :
    s0.busy = false
    ∧ (0x03C : BitVec 12) ∈ ([0x008, 0x00C, 0x010, 0x014, 0x018, 0x020, 0x02C, 0x034, 0x038, 0x03C] : List (BitVec 12))
    ∧ ((0x17C : BitVec 12).toNat % 4 = 0 ∧ 0x100 ≤ (0x17C : BitVec 12).toNat ∧ (0x17C : BitVec 12).toNat ≤ 0x17F)
    ∧ ((0x400 : BitVec 12).toNat % 4 = 0 ∧ 0x400 ≤ (0x400 : BitVec 12).toNat ∧ (0x400 : BitVec 12).toNat ≤ 0x47F) := by decide

theorem witness_HostReadsRegisters : s0.busy = false := rfl

theorem witness_HostWordWritesFourBytes : s0.busy = false ∧ 31 < 32 ∧ 27 < 28 := by decide

theorem witness_HostWordReadsFourBytes :
    (s0.busy = false ∧ Memory.read (s0.buf .str) (4 * 31 + 3) = none ∧ 31 < 32 ∧ 27 < 28 ∧ 110 ≤ 4 * 27 + 2) ∧
    ({ s0 with pl := [(108, 1), (109, 2)] } : State).busy = false
    ∧ Memory.read (State.buf { s0 with pl := [(108, 1), (109, 2)] } .pl) (4 * 27) = some 1
    ∧ Memory.read (State.buf { s0 with pl := [(108, 1), (109, 2)] } .pl) (4 * 27 + 1) = some 2
    ∧ (Buf.pl = .pl ∧ 27 = 27 ∧ (0 : Byte) = 0)
    ∧ (¬(Buf.tx = .pl ∧ 31 = 27) ∧ Memory.read (State.buf { s0 with tx := Memory.writeAll [] 124 [1, 2, 3, 4] } .tx) (4 * 31 + 2) = some 3
      ∧ Memory.read (State.buf { s0 with tx := Memory.writeAll [] 124 [1, 2, 3, 4] } .tx) (4 * 31 + 3) = some 4
      ∧ Memory.read (State.buf { s0 with tx := Memory.writeAll [] 124 [1, 2, 3, 4] } .tx) (4 * 31) = some 1
      ∧ Memory.read (State.buf { s0 with tx := Memory.writeAll [] 124 [1, 2, 3, 4] } .tx) (4 * 31 + 1) = some 2) := by decide

theorem witness_AddrChangesOnlyBeforeTheProbe :
    (afterStep { s0 with turns := [.hostWrite 32 0x01C 0x00003230] }).adr ≠ s0.adr
    ∧ (afterStep { s0 with adr := 0, turns := [.reset] }).adr ≠ 0 := by decide +kernel

end Sys2Proof.Machine.Tests
end

section
/-! The proofs of the statements on 10_state.md. First layer: what a command leaves as it was, and what it can do to MODE, PHASE, DATAFLAG and ATTEMPTS. -/

namespace Sys2Proof.Machine

open Sys2Proof.Config

/-! ## NONHEX stays set (10_state.md R24: sticky) -/

theorem hexval_nonhex_stays {s : State} (h : s.nonhex = true) (bs : List Byte) : (hexval bs s).2.nonhex = true := by
  obtain ⟨d, hd⟩ := hexval_state bs s
  simp [hd, h]

@[simp] theorem readHex_nonhex_stays {s : State} (h : s.nonhex = true) (off len : Nat) :
    (readHex off len s).2.nonhex = true := by
  obtain ⟨d, hd⟩ := readBytes_state .rx off len s
  exact hexval_nonhex_stays (by rw [hd]; exact h) _

@[simp] theorem readHexByte_nonhex_stays {s : State} (h : s.nonhex = true) (off : Nat) :
    (readHexByte off s).2.nonhex = true := readHex_nonhex_stays h off 2

theorem decodePairs_nonhex_stays {s : State} (h : s.nonhex = true) (n : Nat) (bs : List Byte) :
    (decodePairs n bs s).2.nonhex = true := by
  induction n generalizing bs s with
  | zero => cases bs <;> exact h
  | succ n ih =>
    match bs with
    | [] => exact h
    | [_] => exact h
    | a :: b :: rest =>
      have hab := hexval_nonhex_stays h [a, b]
      simp only [decodePairs]
      split
      · exact hab
      · exact ih hab rest

theorem strFromHex_nonhex_stays {s : State} (h : s.nonhex = true) (bs : List Byte) (k cap : Nat) :
    (strFromHex bs k cap s).2.nonhex = true := decodePairs_nonhex_stays h _ bs

theorem validate_nonhex_stays {s : State} (h : s.nonhex = true) (m : Nat) (c : Bool) :
    (validate m c s).2.nonhex = true := by
  unfold validate
  dsimp only
  split_ifs <;> simp only [logRec_nonhex, readHex_nonhex_stays, h]

theorem accept_nonhex_stays {s : State} (h : s.nonhex = true) (m : Nat) (c : Bool) : (accept m c s).2.nonhex = true := by
  have hv := validate_nonhex_stays h m c
  obtain ⟨r, l, d, hc⟩ := checkSum_state (validate m c s).2
  have hs : (checkSum (validate m c s).2).2.nonhex = true := by rw [hc]; exact hv
  unfold accept
  dsimp only
  split_ifs <;> simp only [hv, hs]

theorem exchange_nonhex_stays {s : State} (h : s.nonhex = true) (c p : List Byte) : (exchange c p s).nonhex = true := by
  obtain ⟨rx, n, t, l, d, -, he⟩ := exchange_state c p s
  rw [he]
  exact h

theorem exchangeAccept_nonhex_stays {s : State} (h : s.nonhex = true) (c p : List Byte) (m : Nat) (k : Bool) :
    (exchangeAccept c p m k s).2.nonhex = true := accept_nonhex_stays (exchange_nonhex_stays h c p) m k

theorem retry_nonhex_stays {s : State} (h : s.nonhex = true) (c p : List Byte) (m : Nat) (k : Bool) (as : List Nat)
    (last : OutcomeCode) : (retry (exchangeAccept c p m k) as last s).2.nonhex = true :=
  retry_keeps (P := fun u => u.nonhex = true) h (fun _ _ _ hu => hu) (fun _ hu => exchangeAccept_nonhex_stays hu c p m k)

@[simp] theorem emitIf_nonhex (c : Bool) (e : StoreEvent) (s : State) : (emitIf c e s).nonhex = s.nonhex := by
  cases c <;> rfl

@[simp] theorem commitStatus_nonhex (f : StatusSet) (s : State) : (commitStatus f s).nonhex = s.nonhex := by
  simp [commitStatus]

@[simp] theorem logAnomaly_nonhex {α : Type} (r : Option α) (c : LogCode) (v : Nat) (s : State) :
    (logAnomaly r c v s).nonhex = s.nonhex := by
  cases r <;> rfl

@[simp] theorem publishMapped_nonhex (r : Option FactValue) (c : LogCode) (v : Nat) (id : FactId) (s : State) :
    (publishMapped r c v id s).nonhex = s.nonhex := by
  cases r <;> rfl

@[simp] theorem correct_nonhex (vin : Nat) (nx : Phase) (s : State) : (correct vin nx s).2.nonhex = s.nonhex := by
  unfold correct
  split <;> simp

@[simp] theorem publishSys_nonhex (f : SysFields) (s : State) : (publishSys f s).nonhex = s.nonhex := by
  simp [publishSys]

@[simp] theorem publishOnoff_nonhex (f : OnoffFields) (s : State) : (publishOnoff f s).nonhex = s.nonhex := by
  simp [publishOnoff]

theorem publishAnalog_nonhex_stays {s : State} (h : s.nonhex = true) (k : AnalogFact) :
    (publishAnalog k s).2.nonhex = true := by
  simp only [publishAnalog, emit_nonhex, readHex_nonhex_stays h]

theorem publishAnalogs_nonhex_stays {s : State} (h : s.nonhex = true) (ks : List AnalogFact) :
    (publishAnalogs ks s).nonhex = true := by
  induction ks generalizing s with
  | nil => exact h
  | cons k ks ih => exact ih (publishAnalog_nonhex_stays h k)

theorem warnSlot_nonhex_stays {s : State} (h : s.nonhex = true) (i : Fin 26) : (warnSlot i s).nonhex = true := by
  unfold warnSlot
  split
  · exact h
  · dsimp only
    split_ifs <;> simp only [emit_nonhex, logRec_nonhex, readHexByte_nonhex_stays h]

theorem warnSlots_nonhex_stays {s : State} (h : s.nonhex = true) (is : List (Fin 26)) :
    (warnSlots is s).nonhex = true := by
  induction is generalizing s with
  | nil => exact h
  | cons i is ih => exact ih (warnSlot_nonhex_stays h i)

@[simp] theorem readSysField_nonhex_stays {s : State} (h : s.nonhex = true) (f : SysField) :
    (readSysField f s).2.nonhex = true := by
  cases f with
  | two k => exact readHexByte_nonhex_stays h _
  | four k => exact readHex_nonhex_stays h _ 4

theorem readOnoff_nonhex_stays {s : State} (h : s.nonhex = true) : (readOnoff s).2.nonhex = true := by
  simp only [readOnoff]
  exact readHexByte_nonhex_stays (readHexByte_nonhex_stays (readHexByte_nonhex_stays (readHexByte_nonhex_stays h _) _) _) _

theorem readSys_nonhex_stays {s : State} (h : s.nonhex = true) : (readSys s).2.nonhex = true := by
  simp only [readSys]
  exact readSysField_nonhex_stays (readSysField_nonhex_stays (readSysField_nonhex_stays (readSysField_nonhex_stays
    (readSysField_nonhex_stays (readSysField_nonhex_stays (readSysField_nonhex_stays h _) _) _) _) _) _) _

theorem phaseHandler_nonhex_stays {s : State} (h : s.nonhex = true) (ph : Phase) (df : Nat) :
    (phaseHandler ph df s).2.nonhex = true := by
  cases ph with
  | onoff =>
    simp only [phaseHandler, onoffHandler, publishOnoff_nonhex]
    exact readOnoff_nonhex_stays h
  | analog =>
    simp only [phaseHandler, analogHandler, correct_nonhex]
    exact publishAnalogs_nonhex_stays (publishAnalog_nonhex_stays h _) _
  | warning =>
    simp only [phaseHandler, warningHandler, emit_nonhex]
    exact warnSlots_nonhex_stays (s := emit .alarmInit s) h _
  | sysparam =>
    simp only [phaseHandler, sysparamHandler, publishSys_nonhex]
    exact readSys_nonhex_stays h

theorem tickPublish_nonhex_stays {s : State} (h : s.nonhex = true) (ph : Phase) : (tickPublish ph s).nonhex = true := by
  have hd := readHexByte_nonhex_stays h (dataflagOffset s.cfg)
  simp only [tickPublish, emit_nonhex]
  exact phaseHandler_nonhex_stays (s := { (readHexByte (dataflagOffset s.cfg) s).2 with
    dataflag := BitVec.ofNat 8 (readHexByte (dataflagOffset s.cfg) s).1 }) hd ph _

theorem probeIdentify_nonhex_stays {s : State} (h : s.nonhex = true) : (probeIdentify s).nonhex = true := by
  obtain ⟨d, hd⟩ := readBytes_state .rx s.cfg.nameOff 20 s
  have hr : (readBytes .rx s.cfg.nameOff 20 s).2.nonhex = true := by rw [hd]; exact h
  simp only [probeIdentify, emit_nonhex]
  exact strFromHex_nonhex_stays hr _ _ _

/-- A command's own rule never clears NONHEX. -/
theorem bodyOf_nonhex_stays {s : State} (h : s.nonhex = true) (i : Instr) : (bodyOf i s).nonhex = true := by
  cases i with
  | build => obtain ⟨o, tx, n, d, hb⟩ := buildBody_state s; rw [bodyOf, hb]; exact h
  | lchk l12 => exact h
  | pchk sel off len => obtain ⟨o, r, d, hb⟩ := pchkBody_state sel off len s; rw [bodyOf, hb]; exact h
  | validate m => exact validate_nonhex_stays h m true
  | chklen => obtain ⟨o, r, l, d, hb⟩ := chklenBody_state s; rw [bodyOf, hb]; exact h
  | chksum => obtain ⟨o, r, l, d, hb⟩ := chksumBody_state s; rw [bodyOf, hb]; exact h
  | hex2val off len =>
    have hr := readHex_nonhex_stays h off len
    simp only [bodyOf, hex2valBody]
    split_ifs <;> assumption
  | hex2str off len cap =>
    obtain ⟨d, hd⟩ := readBytes_state .rx off len s
    have hr := strFromHex_nonhex_stays (s := (readBytes .rx off len s).2) (by rw [hd]; exact h) (readBytes .rx off len s).1 len cap
    simp only [bodyOf, hex2strBody]
    split_ifs <;> assumption
  | exchange => obtain ⟨o, tx, n, rx, m, t, l, d, hb⟩ := exchangeBody_state s; rw [bodyOf, hb]; exact h
  | execute idx =>
    simp only [bodyOf, executeBody]
    split
    · exact h
    · rename_i code _
      have hr : (executeAttempts code s).2.nonhex = true :=
        retry_nonhex_stays h (asciiChars4 s.cfg.cidRemote) code 13 true [1, 2, 3] .ok
      split_ifs <;> simp only [finish_nonhex, logRec_nonhex, hr]
  | tick =>
    have hr := exchangeAccept_nonhex_stays h (asciiChars4 (reqCid s.cfg s.phase)) (reqPayload s.cfg s.phase) (minReply s.phase) true
    simp only [bodyOf, tickBody]
    split_ifs <;> simp only [finish_nonhex, emit_nonhex, tickPublish_nonhex_stays, hr]
  | probe =>
    have hr : (probeAttempts s).2.nonhex = true := retry_nonhex_stays h (asciiChars4 s.cfg.cidVendor)
      (payloadChars s.cfg.reqVendor) 35 s.cfg.probeChecksRc [1, 2, 3] .ok
    simp only [bodyOf, probeBody]
    split_ifs <;> simp only [finish_nonhex, logRec_nonhex, probeIdentify_nonhex_stays, hr]

/-! ## What a command can write -/

/-- What every command leaves as it was until it ends: the host's registers and bits, the handshake, MODE, PHASE, DATAFLAG, ATTEMPTS, VER, PLBUF, the parameters and the model's own fields. -/
structure Works (s t : State) : Prop where
  cfg : t.cfg = s.cfg
  busy : t.busy = s.busy
  done : t.done = s.done
  mode : t.mode = s.mode
  overrun : t.overrun = s.overrun
  buserr : t.buserr = s.buserr
  adr : t.adr = s.adr
  ver : t.ver = s.ver
  phase : t.phase = s.phase
  cid : t.cid = s.cid
  pllen : t.pllen = s.pllen
  dataflag : t.dataflag = s.dataflag
  attempts : t.attempts = s.attempts
  pending : t.pending = s.pending
  pl : t.pl = s.pl
  turns : t.turns = s.turns
  hostData : t.hostData = s.hostData

theorem Works.refl (s : State) : Works s s := by constructor <;> rfl

theorem Works.trans {s t u : State} (h : Works s t) (g : Works t u) : Works s u where
  cfg := g.cfg.trans h.cfg
  busy := g.busy.trans h.busy
  done := g.done.trans h.done
  mode := g.mode.trans h.mode
  overrun := g.overrun.trans h.overrun
  buserr := g.buserr.trans h.buserr
  adr := g.adr.trans h.adr
  ver := g.ver.trans h.ver
  phase := g.phase.trans h.phase
  cid := g.cid.trans h.cid
  pllen := g.pllen.trans h.pllen
  dataflag := g.dataflag.trans h.dataflag
  attempts := g.attempts.trans h.attempts
  pending := g.pending.trans h.pending
  pl := g.pl.trans h.pl
  turns := g.turns.trans h.turns
  hostData := g.hostData.trans h.hostData

theorem exchangeAccept_works (c p : List Byte) (m : Nat) (k : Bool) (s : State) : Works s (exchangeAccept c p m k s).2 := by
  obtain ⟨_, _, _, _, _, _, _, _, -, h⟩ := exchangeAccept_state c p m k s
  rw [h]
  constructor <;> rfl

/-- The attempts of EXECUTE and PROBE write ATTEMPTS beside that. -/
theorem Attempted.works {s t : State} (h : Attempted s t) : ∃ u a, Works s u ∧ t = { u with attempts := a } := by
  obtain ⟨tx, n, rx, m, tr, l, d, x, rc, r, a, rfl⟩ := h
  refine ⟨{ s with
    tx := tx, txlen := n, rx := rx, rxlen := m, transport := tr, log := s.log ++ l, draws := d
    nonhex := x, rc := rc, result := r }, a, ?_, rfl⟩
  constructor <;> rfl

/-- The commands of the first row of 60_exceptions.md R226 write nothing else but the outcome. -/
theorem bodyOf_works {i : Instr} (hi : rowOf i = .untilFatal) (s : State) : ∃ o u, Works s u ∧ bodyOf i s = finish o u := by
  cases i with
  | build => obtain ⟨o, _, _, _, h⟩ := buildBody_state s; exact ⟨o, _, by constructor <;> rfl, h⟩
  | lchk l12 => obtain ⟨o, _, h⟩ := lchkBody_state l12 s; exact ⟨o, _, by constructor <;> rfl, h⟩
  | pchk sel off len => obtain ⟨o, _, _, h⟩ := pchkBody_state sel off len s; exact ⟨o, _, by constructor <;> rfl, h⟩
  | validate m => obtain ⟨o, _, _, _, _, _, h⟩ := validateBody_state m s; exact ⟨o, _, by constructor <;> rfl, h⟩
  | chklen => obtain ⟨o, _, _, _, h⟩ := chklenBody_state s; exact ⟨o, _, by constructor <;> rfl, h⟩
  | chksum => obtain ⟨o, _, _, _, h⟩ := chksumBody_state s; exact ⟨o, _, by constructor <;> rfl, h⟩
  | hex2val off len => obtain ⟨o, _, _, _, h⟩ := hex2valBody_state off len s; exact ⟨o, _, by constructor <;> rfl, h⟩
  | hex2str off len cap =>
    obtain ⟨o, _, _, _, _, h⟩ := hex2strBody_state off len cap s
    exact ⟨o, _, by constructor <;> rfl, h⟩
  | exchange => obtain ⟨o, _, _, _, _, _, _, _, h⟩ := exchangeBody_state s; exact ⟨o, _, by constructor <;> rfl, h⟩
  | execute idx => cases hi
  | tick => cases hi
  | probe => cases hi

theorem logRec_works (c : LogCode) (a : Int) (s : State) : Works s (logRec c a s) := by constructor <;> rfl

theorem emit_works (e : StoreEvent) (s : State) : Works s (emit e s) := by constructor <;> rfl

theorem result_works (r : BitVec 64) (s : State) : Works s { s with result := r } := by constructor <;> rfl

/-- EXECUTE writes ATTEMPTS beside that, and PHASE where it ends OK (43_exchange_dispatch.md R160). -/
theorem executeBody_cases (idx : Nat) (s : State) :
    ∃ u a, Works s u ∧ ((∃ o, executeBody idx s = finish o { u with attempts := a })
      ∨ executeBody idx s = finish .ok { u with attempts := a, phase := .sysparam }) := by
  unfold executeBody
  split
  · exact ⟨logRec .unknownCmd idx s, s.attempts, logRec_works _ _ s, .inl ⟨_, rfl⟩⟩
  · rename_i code _
    obtain ⟨u, a, hu, hr⟩ := (retry_attempted (asciiChars4 s.cfg.cidRemote) code 13 true [1, 2, 3] .ok s).works
    dsimp only [executeAttempts]
    split
    · exact ⟨u, a, hu, .inr (by rw [hr])⟩
    · exact ⟨_, a, (hu.trans (result_works _ u)).trans (logRec_works .cmdFailed idx _), .inl ⟨_, by rw [hr]; rfl⟩⟩

/-- TICK writes PHASE and DATAFLAG beside that, where it ends OK (44_pollfsm.md R180). -/
theorem tickBody_cases (s : State) :
    ∃ u, Works s u ∧ ((∃ o, tickBody s = finish o u)
      ∨ ∃ nx df, tickBody s = finish .ok { u with phase := nx, dataflag := df }) := by
  have hu := exchangeAccept_works (asciiChars4 (reqCid s.cfg s.phase)) (reqPayload s.cfg s.phase) (minReply s.phase) true s
  unfold tickBody
  dsimp only
  generalize exchangeAccept (asciiChars4 (reqCid s.cfg s.phase)) (reqPayload s.cfg s.phase) (minReply s.phase) true s = r at hu ⊢
  split
  · obtain ⟨es, l, x, d, nx, df, h⟩ := tickPublish_state s.phase r.2
    have hw : Works r.2 { r.2 with store := applyEvents es r.2.store, log := r.2.log ++ l, nonhex := x, draws := d } := by
      constructor <;> rfl
    exact ⟨_, hu.trans hw, .inr ⟨nx, df, by rw [h]⟩⟩
  · exact ⟨_, hu.trans (emit_works .markStale r.2), .inl ⟨_, rfl⟩⟩

/-- PROBE takes an accepted reply into STRBUF, STRLEN and the store, and goes to RUNNING (43_exchange_dispatch.md R170). -/
theorem probeIdentify_cases (s : State) :
    ∃ str n st x d, (∃ bs : List Byte, bs.length ≤ 10 ∧ n = BitVec.ofNat 8 bs.length ∧ str = Memory.writeAll s.str 0 (bs ++ [0x00]))
      ∧ probeIdentify s = { s with
        str := str, strlen := n, store := st, nonhex := x, draws := d, mode := .running, phase := .sysparam } := by
  obtain ⟨d, hd⟩ := readBytes_state .rx s.cfg.nameOff 20 s
  obtain ⟨x, e, he⟩ := strFromHex_state (readBytes .rx s.cfg.nameOff 20 s).1 20 (nameCap s.cfg)
    (readBytes .rx s.cfg.nameOff 20 s).2
  have hl := strFromHex_length_le (readBytes .rx s.cfg.nameOff 20 s).1 20 (nameCap s.cfg) (readBytes .rx s.cfg.nameOff 20 s).2
  unfold probeIdentify
  dsimp only
  rw [he, hd]
  rw [hd] at hl
  exact ⟨_, _, _, x, e, ⟨_, by omega, rfl, rfl⟩, rfl⟩

/-- PROBE writes ATTEMPTS beside that, and MODE: RUNNING with PHASE SYSPARAM where it ends OK, else FATAL (43_exchange_dispatch.md R170). -/
theorem probeBody_cases (s : State) :
    ∃ u a, Works s u ∧ (probeBody s = finish .ok { u with attempts := a, mode := .running, phase := .sysparam }
      ∨ probeBody s = finish .fatal { u with attempts := a, mode := .fatal }) := by
  obtain ⟨u, a, hu, hr⟩ := (retry_attempted (asciiChars4 s.cfg.cidVendor) (payloadChars s.cfg.reqVendor) 35
    s.cfg.probeChecksRc [1, 2, 3] .ok s).works
  unfold probeBody
  dsimp only [probeAttempts]
  rw [hr]
  split
  · obtain ⟨str, n, st, x, d, -, h⟩ := probeIdentify_cases { u with attempts := a }
    have hw : Works u { u with str := str, strlen := n, store := st, nonhex := x, draws := d } := by constructor <;> rfl
    exact ⟨_, a, hu.trans hw, .inl (by rw [h])⟩
  · exact ⟨_, a, hu.trans (logRec_works .probeFatal 0 u), .inr rfl⟩

theorem mode_of_runningOnly {m : Mode} (h : modeAllows .runningOnly m = true) : m = .running := by
  cases m with
  | running => rfl
  | uninit => cases h
  | fatal => cases h

theorem mode_of_uninitOnly {m : Mode} (h : modeAllows .uninitOnly m = true) : m = .uninit := by
  cases m with
  | uninit => rfl
  | running => cases h
  | fatal => cases h

/-- What a command can do to MODE, PHASE, DATAFLAG and ATTEMPTS: nothing, or what EXECUTE, TICK and PROBE do in the mode that allows them. -/
theorem exec_cases {i : Instr} {s t : State} (h : exec i s = .next t) :
    (∃ o u, Works s u ∧ t = finish o u)
    ∨ (∃ idx u a, i = .execute idx ∧ s.mode = .running ∧ Works s u
        ∧ ((∃ o, t = finish o { u with attempts := a }) ∨ t = finish .ok { u with attempts := a, phase := .sysparam }))
    ∨ (∃ u nx df, i = .tick ∧ s.mode = .running ∧ Works s u ∧ t = finish .ok { u with phase := nx, dataflag := df })
    ∨ ∃ u a, i = .probe ∧ s.mode = .uninit ∧ Works s u
        ∧ (t = finish .ok { u with attempts := a, mode := .running, phase := .sysparam }
          ∨ t = finish .fatal { u with attempts := a, mode := .fatal }) := by
  cases hm : modeAllows (rowOf i) s.mode with
  | false =>
    rw [exec_wrongMode hm] at h
    cases h
    exact .inl ⟨_, s, Works.refl s, rfl⟩
  | true =>
    rw [exec_allowed hm] at h
    cases h
    cases hi : rowOf i with
    | untilFatal =>
      obtain ⟨o, u, hu, ht⟩ := bodyOf_works hi s
      exact .inl ⟨o, u, hu, ht⟩
    | runningOnly =>
      have hrun := mode_of_runningOnly (hi ▸ hm)
      cases i with
      | execute idx =>
        obtain ⟨u, a, hu, ht⟩ := executeBody_cases idx s
        exact .inr (.inl ⟨idx, u, a, rfl, hrun, hu, ht⟩)
      | tick =>
        obtain ⟨u, hu, ⟨o, ht⟩ | ⟨nx, df, ht⟩⟩ := tickBody_cases s
        · exact .inl ⟨o, u, hu, ht⟩
        · exact .inr (.inr (.inl ⟨u, nx, df, rfl, hrun, hu, ht⟩))
      | _ => cases hi
    | uninitOnly =>
      have huninit := mode_of_uninitOnly (hi ▸ hm)
      cases i with
      | probe =>
        obtain ⟨u, a, hu, ht⟩ := probeBody_cases s
        exact .inr (.inr (.inr ⟨u, a, rfl, huninit, hu, ht⟩))
      | _ => cases hi

/-! ## What a turn can change beside a command -/

/-- No host write reaches MODE or PHASE (20_memory.md R52). -/
theorem writeReg_control (r : HostReg) (v : Word) (s : State) :
    (writeReg r v s).mode = s.mode ∧ (writeReg r v s).phase = s.phase := by
  cases r with
  | adr =>
    unfold writeReg
    dsimp only
    split <;> exact ⟨rfl, rfl⟩
  | window b i => cases b <;> exact ⟨rfl, rfl⟩
  | _ => exact ⟨rfl, rfl⟩

theorem hostWrite_control (w : Nat) (a : BitVec 12) (v : Word) (s : State) :
    (hostWrite w a v s).mode = s.mode ∧ (hostWrite w a v s).phase = s.phase := by
  obtain ⟨b, o, h, -, -⟩ | ⟨r, -, -, h⟩ := hostWrite_cases w a v s
  · rw [h]
    exact ⟨rfl, rfl⟩
  · rw [h]
    exact writeReg_control r v s

/-- A register that host accesses and `finish` leave alone is changed by a step only through a reset, or through the pending command at the block's turn. -/
theorem step_changes {α : Type} (f : State → α) (hturns : ∀ u ts, f { u with turns := ts } = f u)
    (hread : ∀ w a u, f (hostRead w a u) = f u) (hwrite : ∀ w a v u, f (hostWrite w a v u) = f u)
    (hfinish : ∀ o u, f (finish o u) = f u) {s t : State} (h : step s = .next t) (hne : f t ≠ f s) :
    (∃ rest, s.turns = .reset :: rest ∧ t = blockReset { s with turns := rest })
    ∨ (BlocksTurn s ∧ s.busy = true ∧ ∃ i, decode s.pending = .ok i ∧ exec i { s with turns := s.turns.tail } = .next t) := by
  obtain hreset | ⟨w, a, rest, -, rfl⟩ | ⟨w, a, v, rest, -, rfl⟩ | ⟨hturn, hb⟩ := step_cases h
  · exact .inl hreset
  · exact absurd (by rw [hread, hturns]) hne
  · exact absurd (by rw [hwrite, hturns]) hne
  · obtain ⟨-, rfl⟩ | ⟨hbusy, i, hi, he⟩ | ⟨-, -, rfl⟩ := blockStep_cases hb
    · exact absurd (hturns _ _) hne
    · exact .inr ⟨hturn, hbusy, i, hi, he⟩
    · exact absurd (by rw [hfinish, hturns]) hne

theorem hostRead_mode (w : Nat) (a : BitVec 12) (s : State) : (hostRead w a s).mode = s.mode := by
  obtain ⟨_, _, _, h, -⟩ := hostRead_state w a s
  rw [h]

theorem hostRead_phase (w : Nat) (a : BitVec 12) (s : State) : (hostRead w a s).phase = s.phase := by
  obtain ⟨_, _, _, h, -⟩ := hostRead_state w a s
  rw [h]

theorem hostRead_adr (w : Nat) (a : BitVec 12) (s : State) : (hostRead w a s).adr = s.adr := by
  obtain ⟨_, _, _, h, -⟩ := hostRead_state w a s
  rw [h]

/-! ## MODE, PHASE and the argument registers -/

/-- MODE is changed by no command but PROBE, in UNINIT, to RUNNING with OK or to FATAL with FATAL (43_exchange_dispatch.md R170). -/
theorem exec_mode_changes {i : Instr} {s t : State} (h : exec i s = .next t) (hne : t.mode ≠ s.mode) :
    i = .probe ∧ s.mode = .uninit ∧ ((t.mode = .running ∧ t.outcome = .ok) ∨ (t.mode = .fatal ∧ t.outcome = .fatal)) := by
  obtain ⟨o, u, hu, rfl⟩ | ⟨idx, u, a, -, -, hu, ⟨o, rfl⟩ | rfl⟩ | ⟨u, nx, df, -, -, hu, rfl⟩
    | ⟨u, a, rfl, hm, -, rfl | rfl⟩ := exec_cases h
  case inr.inr.inr.inl => exact ⟨rfl, hm, .inl ⟨rfl, rfl⟩⟩
  case inr.inr.inr.inr => exact ⟨rfl, hm, .inr ⟨rfl, rfl⟩⟩
  all_goals
    exact absurd hu.mode hne

/-- PHASE is changed by no command but TICK, EXECUTE and PROBE with outcome OK, the last two setting SYSPARAM (10_state.md R31). -/
theorem exec_phase_changes {i : Instr} {s t : State} (h : exec i s = .next t) (hne : t.phase ≠ s.phase) :
    t.outcome = .ok ∧ (i = .tick ∨ (i = .probe ∧ t.phase = .sysparam) ∨ ∃ idx, i = .execute idx ∧ t.phase = .sysparam) := by
  obtain ⟨o, u, hu, rfl⟩ | ⟨idx, u, a, rfl, -, hu, ⟨o, rfl⟩ | rfl⟩ | ⟨u, nx, df, rfl, -, -, rfl⟩
    | ⟨u, a, rfl, -, hu, rfl | rfl⟩ := exec_cases h
  case inr.inl.inr => exact ⟨rfl, .inr (.inr ⟨idx, rfl, rfl⟩)⟩
  case inr.inr.inl => exact ⟨rfl, .inl rfl⟩
  case inr.inr.inr.inl => exact ⟨rfl, .inr (.inl ⟨rfl, rfl⟩)⟩
  all_goals
    exact absurd hu.phase hne

/-- No command clears NONHEX. -/
theorem exec_nonhex_stays {i : Instr} {s t : State} (h : exec i s = .next t) (hx : s.nonhex = true) : t.nonhex = true := by
  rw [exec_eq] at h
  cases h
  split
  · exact bodyOf_nonhex_stays hx i
  · exact hx

/-- What no command changes: the registers only the host writes, the constant VER, PLBUF, the host's sticky bits, and the model's own fields. -/
def SameOperands (s t : State) : Prop :=
  t.adr = s.adr ∧ t.ver = s.ver ∧ t.cid = s.cid ∧ t.pllen = s.pllen ∧ t.pl = s.pl ∧ t.overrun = s.overrun
  ∧ t.buserr = s.buserr ∧ t.pending = s.pending ∧ t.cfg = s.cfg ∧ t.turns = s.turns ∧ t.hostData = s.hostData

theorem exec_sameOperands {i : Instr} {s t : State} (h : exec i s = .next t) : SameOperands s t := by
  obtain ⟨o, u, hu, rfl⟩ | ⟨idx, u, a, -, -, hu, ⟨o, rfl⟩ | rfl⟩ | ⟨u, nx, df, -, -, hu, rfl⟩
    | ⟨u, a, -, -, hu, rfl | rfl⟩ := exec_cases h
  all_goals
    exact ⟨hu.adr, hu.ver, hu.cid, hu.pllen, hu.pl, hu.overrun, hu.buserr, hu.pending, hu.cfg, hu.turns, hu.hostData⟩

/-- Settles O11: by the cases of a command and of a step. -/
theorem modeChangesOnlyByProbeAndReset : Obligations.ModeChangesOnlyByProbeAndReset := by
  refine ⟨fun i s t h hne => exec_mode_changes h hne, fun s t h hne => ?_⟩
  obtain ⟨rest, hr, rfl⟩ | ⟨hturn, hbusy, i, hi, he⟩ := step_changes State.mode (fun _ _ => rfl) hostRead_mode
    (fun w a v u => (hostWrite_control w a v u).1) finish_mode h hne
  · exact .inl ⟨rest, hr, rfl⟩
  · obtain ⟨rfl, hm, ht⟩ := exec_mode_changes he hne
    exact .inr ⟨hturn, hbusy, hi, hm, ht⟩

/-- Settles O12: by the cases of a command and of a step. -/
theorem phaseChangesOnlyOnSuccess : Obligations.PhaseChangesOnlyOnSuccess := by
  refine ⟨fun i s t h hne => exec_phase_changes h hne, fun s t h hne => ?_⟩
  obtain ⟨rest, hr, rfl⟩ | ⟨hturn, hbusy, i, hi, he⟩ := step_changes State.phase (fun _ _ => rfl) hostRead_phase
    (fun w a v u => (hostWrite_control w a v u).2) finish_phase h hne
  · exact .inl ⟨rest, hr, rfl⟩
  · obtain ⟨ho, hc⟩ := exec_phase_changes he hne
    exact .inr ⟨hturn, hbusy, ho, i, hi, hc⟩

/-- Settles O16: a command writes inside the footprint of `exec_cases`, and no operation clears NONHEX. -/
theorem noCommandChangesAddrVerCidPllenOrPlbuf : Obligations.NoCommandChangesAddrVerCidPllenOrPlbuf := by
  intro i s t h
  obtain ⟨adr, ver, cid, pllen, pl, overrun, buserr, pending, cfg, turns, hostData⟩ := exec_sameOperands h
  exact ⟨adr, ver, cid, pllen, pl, overrun, buserr, pending, cfg, turns, hostData, exec_nonhex_stays h⟩


/-! ## ADDR (10_state.md R29) -/

/-- ADDR's address is 0x01C (20_memory.md R52). -/
theorem registerAt_adr {n : Nat} (h : registerAt n = some .adr) : n = 0x01C := by
  unfold registerAt at h
  split at h
  case h_8 => rfl
  case h_17 =>
    unfold windowAt at h
    split_ifs at h <;> cases h
  all_goals cases h

theorem hostTarget_adr {w : Nat} {a : BitVec 12} (h : hostTarget w a = some .adr) : w = 32 ∧ a = 0x01C := by
  unfold hostTarget at h
  split at h
  · rename_i hw
    exact ⟨hw.1, BitVec.eq_of_toNat_eq (registerAt_adr h)⟩
  · cases h

/-- An admitted host write leaves ADDR, or is one of ADDR in UNINIT. -/
theorem writeReg_adr (r : HostReg) (v : Word) (s : State) :
    (writeReg r v s).adr = s.adr ∨ (r = .adr ∧ s.mode = .uninit ∧ (writeReg r v s).adr = v.setWidth 16) := by
  cases r with
  | adr =>
    cases hm : s.mode with
    | uninit => exact .inr ⟨rfl, rfl, by simp [writeReg, hm]⟩
    | running => exact .inl (by simp [writeReg, hm])
    | fatal => exact .inl (by simp [writeReg, hm])
  | window b i => cases b <;> exact .inl rfl
  | _ => exact .inl rfl

/-- A host write leaves ADDR, or is one of ADDR in UNINIT while BUSY = 0. -/
theorem hostWrite_adr_changes {w : Nat} {a : BitVec 12} {v : Word} {s : State} (hne : (hostWrite w a v s).adr ≠ s.adr) :
    w = 32 ∧ a = 0x01C ∧ s.mode = .uninit ∧ s.busy = false ∧ (hostWrite w a v s).adr = v.setWidth 16 := by
  obtain ⟨b, o, h, -, -⟩ | ⟨r, ht, hb, h⟩ := hostWrite_cases w a v s
  · exact absurd (by rw [h]) hne
  · rw [h] at hne ⊢
    obtain hsame | ⟨rfl, hm, hv⟩ := writeReg_adr r v s
    · exact absurd hsame hne
    · obtain ⟨rfl, rfl⟩ := hostTarget_adr ht
      exact ⟨rfl, rfl, hm, hb.resolve_right (by decide), hv⟩

/-- The block's turn leaves the argument registers. -/
theorem blockStep_adr {s t : State} (h : blockStep s = .next t) : t.adr = s.adr := by
  obtain ⟨-, rfl⟩ | ⟨-, i, -, he⟩ | ⟨-, -, rfl⟩ := blockStep_cases h
  · rfl
  · exact (exec_sameOperands he).1
  · rfl

/-- Settles O60: by the cases of a step. -/
theorem addrChangesOnlyBeforeTheProbe : Obligations.AddrChangesOnlyBeforeTheProbe := by
  intro s t h hne
  obtain ⟨rest, hr, -⟩ | ⟨w, a, rest, -, rfl⟩ | ⟨w, a, v, rest, ht, rfl⟩ | ⟨-, hb⟩ := step_cases h
  · exact .inl ⟨rest, hr⟩
  · exact absurd (hostRead_adr w a _) hne
  · obtain ⟨rfl, rfl, hm, hbusy, hv⟩ := hostWrite_adr_changes hne
    exact .inr ⟨hm, hbusy, v, rest, ht, hv⟩
  · exact absurd (blockStep_adr hb) hne

end Sys2Proof.Machine
end

section
/-! The invariant of the machine (O48). `Bounded` is the part of `Inv` that every single operation of a command keeps; the clauses on MODE hold once the command has ended, and `exec_cases` gives them. -/

namespace Sys2Proof.Machine

open Sys2Proof.Config

/-- The clauses of `Inv` that do not speak of MODE or of the handshake. -/
structure Bounded (s : State) : Prop where
  buffers : ∀ b : Buf, bufferOk (s.buf b) b.size
  version : s.ver = asciiReg2 s.cfg.protoVer
  txlen : s.txlen = 0 ∨ (18 ≤ s.txlen.toNat ∧ s.txlen.toNat ≤ 128)
  strlen : s.strlen.toNat < 128
  attempts : s.attempts.toNat ≤ 3

/-- The clauses of `Inv` on what MODE says of PHASE, DATAFLAG and ATTEMPTS (60_exceptions.md R226). -/
structure ModeConsistent (s : State) : Prop where
  phase : s.mode = .running ∨ s.phase = .sysparam
  dataflag : s.mode = .running ∨ s.dataflag = 0
  unprobed : s.mode ≠ .uninit ∨ s.attempts = 0

theorem inv_iff (s : State) : Inv s ↔ Bounded s ∧ ¬(s.busy = true ∧ s.done = true) ∧ ModeConsistent s :=
  ⟨fun h => ⟨⟨h.buffers, h.version, h.txlen, h.strlen, h.attempts⟩, h.handshake, ⟨h.phase, h.dataflag, h.unprobed⟩⟩,
    fun ⟨hb, hh, hm⟩ => ⟨hb.buffers, hh, hb.version, hb.txlen, hb.strlen, hb.attempts, hm.phase, hm.dataflag, hm.unprobed⟩⟩

/-! ## Buffers -/

theorem bufferOk_nil (n : Nat) : bufferOk [] n := ⟨List.Pairwise.nil, by simp⟩

theorem bufferOk.writeAll {m : Memory} {n : Nat} (h : bufferOk m n) {i : Nat} {bs : List Byte} (hi : i + bs.length ≤ n) :
    bufferOk (Memory.writeAll m i bs) n := ⟨Memory.writeAll_wf h.1 i bs, Memory.writeAll_below h.2 hi⟩

/-! ## The operations of a command keep the bounds -/

namespace Bounded

/-- What has no clause can be written freely. -/
theorem scratch {s : State} (h : Bounded s) (x : Bool) (rc : BitVec 8) (r : BitVec 64) (n : BitVec 16) (l : List LogRecord) (d : Nat)
    (st : Store) (tr : Transport) : Bounded { s with
      nonhex := x, rc := rc, result := r, rxlen := n, log := l, draws := d, store := st, transport := tr } :=
  ⟨h.buffers, h.version, h.txlen, h.strlen, h.attempts⟩

theorem finish {s : State} (h : Bounded s) (o : OutcomeCode) : Bounded (finish o s) :=
  ⟨h.buffers, h.version, h.txlen, h.strlen, h.attempts⟩

theorem logRec {s : State} (h : Bounded s) (c : LogCode) (a : Int) : Bounded (logRec c a s) :=
  ⟨h.buffers, h.version, h.txlen, h.strlen, h.attempts⟩

/-- The registers that only the clauses on MODE bound. -/
theorem control {s : State} (h : Bounded s) (m : Mode) (ph : Phase) (df : BitVec 8) :
    Bounded { s with mode := m, phase := ph, dataflag := df } :=
  ⟨h.buffers, h.version, h.txlen, h.strlen, h.attempts⟩

theorem setAttempts {s : State} (h : Bounded s) {a : Nat} (ha : a ≤ 3) : Bounded { s with attempts := BitVec.ofNat 8 a } :=
  ⟨h.buffers, h.version, h.txlen, h.strlen, by rw [BitVec.toNat_ofNat]; omega⟩

/-- The frame of a payload within MAX_PAYLOAD fits TXBUF (30_encoding.md R86). -/
theorem putFrame {s : State} (h : Bounded s) {c p : List Byte} (hc : c.length = 4) (hp : p.length ≤ 110) :
    Bounded (putFrame c p s) where
  buffers b := by
    cases b with
    | tx =>
      refine (h.buffers .tx).writeAll ?_
      rw [buildFrame_length _ _ hc (chars2_length _) (chars2_length _)]
      show 0 + (18 + p.length) ≤ 128
      omega
    | rx => exact h.buffers .rx
    | pl => exact h.buffers .pl
    | str => exact h.buffers .str
  version := h.version
  txlen := by
    rw [putFrame_txlen, BitVec.toNat_ofNat]
    omega
  strlen := h.strlen
  attempts := h.attempts

theorem setRx {s : State} (h : Bounded s) {bs : List Byte} (hb : bs.length ≤ 128) :
    Bounded { s with rx := Memory.writeAll [] 0 bs } where
  buffers b := by
    cases b with
    | rx => exact (bufferOk_nil 128).writeAll (by omega)
    | tx => exact h.buffers .tx
    | pl => exact h.buffers .pl
    | str => exact h.buffers .str
  version := h.version
  txlen := h.txlen
  strlen := h.strlen
  attempts := h.attempts

/-- A string of fewer than 128 bytes and its terminator fit STRBUF (42_hexdecode.md R134). -/
theorem setStr {s : State} (h : Bounded s) {bs : List Byte} (hb : bs.length < 128) :
    Bounded { s with str := Memory.writeAll s.str 0 (bs ++ [0x00]), strlen := BitVec.ofNat 8 bs.length } where
  buffers b := by
    cases b with
    | str => exact (h.buffers .str).writeAll (by simp [Buf.size]; omega)
    | tx => exact h.buffers .tx
    | rx => exact h.buffers .rx
    | pl => exact h.buffers .pl
  version := h.version
  txlen := h.txlen
  strlen := by
    show (BitVec.ofNat 8 bs.length).toNat < 128
    rw [BitVec.toNat_ofNat]
    omega
  attempts := h.attempts

theorem exchange {s : State} (h : Bounded s) {c p : List Byte} (hc : c.length = 4) (hp : p.length ≤ 110) :
    Bounded (exchange c p s) := by
  obtain ⟨rx, n, t, l, d, ⟨bs, hbs, rfl⟩, he⟩ := exchange_state c p s
  rw [he]
  exact ((h.putFrame hc hp).setRx hbs).scratch _ _ _ n _ d _ t

theorem exchangeAccept {s : State} (h : Bounded s) {c p : List Byte} (hc : c.length = 4) (hp : p.length ≤ 110) (m : Nat)
    (k : Bool) : Bounded (exchangeAccept c p m k s).2 := by
  obtain ⟨x, rc, r, l, d, ha⟩ := accept_state m k (Machine.exchange c p s)
  unfold Machine.exchangeAccept
  rw [ha]
  exact (h.exchange hc hp).scratch x rc r _ _ d _ _

/-- At most three attempts are counted (43_exchange_dispatch.md R162). -/
theorem retry {s : State} (h : Bounded s) {c p : List Byte} (hc : c.length = 4) (hp : p.length ≤ 110) (m : Nat) (k : Bool)
    (last : OutcomeCode) : Bounded (retry (Machine.exchangeAccept c p m k) [1, 2, 3] last s).2 := by
  refine retry_keeps h (fun a ha u hu => hu.setAttempts ?_) (fun u hu => hu.exchangeAccept hc hp m k)
  simp only [List.mem_cons, List.not_mem_nil, or_false] at ha
  omega

end Bounded

/-! ## The commands keep the bounds -/

theorem cmdCode_length_le {cfg : Params} {idx : Nat} {code : List Byte} (h : cmdCode cfg idx = some code) : code.length ≤ 110 := by
  unfold cmdCode at h
  split at h <;> cases h <;> simp [loadOnCode]

theorem reqPayload_length_le (cfg : Params) (ph : Phase) : (reqPayload cfg ph).length ≤ 110 := by
  cases ph <;> exact payloadChars_length_le _

theorem buildBody_bounded {s : State} (h : Bounded s) : Bounded (buildBody s) := by
  obtain ⟨d, hd⟩ := readBytes_state .pl 0 s.pllen.toNat s
  unfold buildBody
  dsimp only
  split
  · exact h.finish _
  · rename_i hl
    rw [hd]
    refine Bounded.finish (Bounded.putFrame (h.scratch _ _ _ _ _ d _ _) (chars4_length _) ?_) _
    rw [readBytes_length]
    exact Nat.not_lt.mp hl

theorem hex2strBody_bounded {s : State} (h : Bounded s) (off len cap : Nat) : Bounded (hex2strBody off len cap s) := by
  obtain ⟨d, hd⟩ := readBytes_state .rx off len s
  obtain ⟨x, e, he⟩ := strFromHex_state (readBytes .rx off len s).1 len cap (readBytes .rx off len s).2
  have hl := strFromHex_length_le (readBytes .rx off len s).1 len cap (readBytes .rx off len s).2
  unfold hex2strBody
  dsimp only
  split
  · exact h.finish _
  split
  · exact h.finish _
  · rw [he, hd]
    rw [hd] at hl
    exact ((h.setStr (by omega)).scratch x _ _ _ _ e _ _).finish _

theorem exchangeBody_bounded {s : State} (h : Bounded s) : Bounded (exchangeBody s) := by
  obtain ⟨d, hd⟩ := readBytes_state .pl 0 s.pllen.toNat s
  unfold exchangeBody
  dsimp only
  split
  · exact h.finish _
  · rename_i hl
    rw [hd]
    refine Bounded.finish (Bounded.exchange (h.scratch _ _ _ _ _ d _ _) (chars4_length _) ?_) _
    rw [readBytes_length]
    exact Nat.not_lt.mp hl

theorem executeBody_bounded {s : State} (h : Bounded s) (idx : Nat) : Bounded (executeBody idx s) := by
  unfold executeBody
  split
  · exact (h.logRec _ _).finish _
  · rename_i code hcode
    have hr : Bounded (executeAttempts code s).2 := h.retry (asciiChars4_length _) (cmdCode_length_le hcode) 13 true .ok
    dsimp only
    split
    · exact (hr.control _ _ _).finish _
    · exact ((hr.scratch _ _ _ _ _ _ _ _).logRec _ _).finish _

theorem tickBody_bounded {s : State} (h : Bounded s) : Bounded (tickBody s) := by
  have hr := h.exchangeAccept (asciiChars4_length (reqCid s.cfg s.phase)) (reqPayload_length_le s.cfg s.phase) (minReply s.phase) true
  unfold tickBody
  dsimp only
  generalize exchangeAccept (asciiChars4 (reqCid s.cfg s.phase)) (reqPayload s.cfg s.phase) (minReply s.phase) true s = r at hr ⊢
  split
  · obtain ⟨es, l, x, d, nx, df, ht⟩ := tickPublish_state s.phase r.2
    rw [ht]
    exact ((hr.scratch x _ _ _ _ d _ _).control _ nx df).finish _
  · exact Bounded.finish (hr.scratch _ _ _ _ _ _ _ _) _

theorem probeIdentify_bounded {s : State} (h : Bounded s) : Bounded (probeIdentify s) := by
  obtain ⟨str, n, st, x, d, ⟨bs, hbs, rfl, rfl⟩, hp⟩ := probeIdentify_cases s
  rw [hp]
  exact ((h.setStr (by omega)).scratch x _ _ _ _ d st _).control _ _ _

theorem probeBody_bounded {s : State} (h : Bounded s) : Bounded (probeBody s) := by
  have hr : Bounded (probeAttempts s).2 := h.retry (asciiChars4_length _) (payloadChars_length_le _) 35 s.cfg.probeChecksRc .ok
  unfold probeBody
  dsimp only
  split
  · exact (probeIdentify_bounded hr).finish _
  · exact ((hr.logRec _ _).control _ _ _).finish _

/-- Every command's own rule keeps the bounds. -/
theorem bodyOf_bounded {s : State} (h : Bounded s) (i : Instr) : Bounded (bodyOf i s) := by
  cases i with
  | build => exact buildBody_bounded h
  | lchk l12 => exact (h.scratch _ _ _ _ _ _ _ _).finish _
  | pchk sel off len =>
    obtain ⟨o, r, d, hb⟩ := pchkBody_state sel off len s
    rw [bodyOf, hb]
    exact (h.scratch _ _ r _ _ d _ _).finish o
  | validate m =>
    obtain ⟨o, x, rc, r, l, d, hb⟩ := validateBody_state m s
    rw [bodyOf, hb]
    exact (h.scratch x rc r _ _ d _ _).finish o
  | chklen =>
    obtain ⟨o, r, l, d, hb⟩ := chklenBody_state s
    rw [bodyOf, hb]
    exact (h.scratch _ _ r _ _ d _ _).finish o
  | chksum =>
    obtain ⟨o, r, l, d, hb⟩ := chksumBody_state s
    rw [bodyOf, hb]
    exact (h.scratch _ _ r _ _ d _ _).finish o
  | hex2val off len =>
    obtain ⟨o, r, x, d, hb⟩ := hex2valBody_state off len s
    rw [bodyOf, hb]
    exact (h.scratch x _ r _ _ d _ _).finish o
  | hex2str off len cap => exact hex2strBody_bounded h off len cap
  | exchange => exact exchangeBody_bounded h
  | execute idx => exact executeBody_bounded h idx
  | tick => exact tickBody_bounded h
  | probe => exact probeBody_bounded (s := s) h

theorem exec_bounded {i : Instr} {s t : State} (hs : Bounded s) (h : exec i s = .next t) : Bounded t := by
  rw [exec_eq] at h
  cases h
  split
  · exact bodyOf_bounded hs i
  · exact hs.finish _

/-! ## The clauses on MODE -/

theorem ModeConsistent.of_eq {s t : State} (h : ModeConsistent s) (hm : t.mode = s.mode) (hp : t.phase = s.phase)
    (hd : t.dataflag = s.dataflag) (ha : t.attempts = s.attempts) : ModeConsistent t where
  phase := by rw [hm, hp]; exact h.phase
  dataflag := by rw [hm, hd]; exact h.dataflag
  unprobed := by rw [hm, ha]; exact h.unprobed

/-- RUNNING bounds nothing. -/
theorem modeConsistent_of_running {s : State} (h : s.mode = .running) : ModeConsistent s :=
  ⟨.inl h, .inl h, .inl (by rw [h]; decide)⟩

theorem exec_modeConsistent {i : Instr} {s t : State} (hs : ModeConsistent s) (h : exec i s = .next t) : ModeConsistent t := by
  obtain ⟨o, u, hu, rfl⟩ | ⟨idx, u, a, -, hm, hu, ⟨o, rfl⟩ | rfl⟩ | ⟨u, nx, df, -, hm, hu, rfl⟩
    | ⟨u, a, -, hm, hu, rfl | rfl⟩ := exec_cases h
  case inl => exact hs.of_eq hu.mode hu.phase hu.dataflag hu.attempts
  case inr.inr.inr.inl => exact modeConsistent_of_running rfl
  case inr.inr.inr.inr =>
    have hphase : s.phase = .sysparam := hs.phase.resolve_left (by rw [hm]; decide)
    have hflag : s.dataflag = 0 := hs.dataflag.resolve_left (by rw [hm]; decide)
    exact ⟨.inr (hu.phase.trans hphase), .inr (hu.dataflag.trans hflag), .inl (by simp)⟩
  all_goals exact modeConsistent_of_running (hu.mode.trans hm)

/-! ## Every command and every host access keeps the invariant -/

/-- A command ends with BUSY = 0 (60_exceptions.md R221). -/
theorem exec_busy {i : Instr} {s t : State} (h : exec i s = .next t) : t.busy = false := by
  obtain ⟨o, u, -, rfl⟩ | ⟨idx, u, a, -, -, -, ⟨o, rfl⟩ | rfl⟩ | ⟨u, nx, df, -, -, -, rfl⟩
    | ⟨u, a, -, -, -, rfl | rfl⟩ := exec_cases h <;> rfl

theorem exec_inv {i : Instr} {s t : State} (hs : Inv s) (h : exec i s = .next t) : Inv t := by
  obtain ⟨hb, -, hm⟩ := (inv_iff s).mp hs
  exact (inv_iff t).mpr ⟨exec_bounded hb h, by simp [exec_busy h], exec_modeConsistent hm h⟩

theorem finish_inv {s : State} (h : Inv s) (o : OutcomeCode) : Inv (finish o s) :=
  ⟨h.buffers, by simp, h.version, h.txlen, h.strlen, h.attempts, h.phase, h.dataflag, h.unprobed⟩

theorem blockReset_inv (s : State) : Inv (blockReset s) where
  buffers b := by cases b <;> exact bufferOk_nil _
  handshake := by simp
  version := rfl
  txlen := .inl rfl
  strlen := by simp
  attempts := by simp
  phase := .inr rfl
  dataflag := .inr rfl
  unprobed := .inr rfl

/-- The host's registers and bits that no clause bounds. -/
theorem Inv.hostFields {s : State} (h : Inv s) (ov x be : Bool) (a : BitVec 16) (c : BitVec 32) (p : BitVec 8) (n : BitVec 16)
    (w : Word) (ts : List Turn) (d : Nat) : Inv { s with
      overrun := ov, nonhex := x, buserr := be, adr := a, cid := c, pllen := p, rxlen := n, hostData := w, turns := ts
      draws := d } :=
  ⟨h.buffers, h.handshake, h.version, h.txlen, h.strlen, h.attempts, h.phase, h.dataflag, h.unprobed⟩

theorem hostRead_inv {s : State} (h : Inv s) (w : Nat) (a : BitVec 12) : Inv (hostRead w a s) := by
  obtain ⟨b, x, d, hr, -⟩ := hostRead_state w a s
  rw [hr]
  exact h.hostFields _ _ b _ _ _ _ x _ d

/-- The word of a window lies inside it (20_memory.md R52). -/
theorem hostTarget_window {w : Nat} {a : BitVec 12} {b : Buf} {i : Nat} (h : hostTarget w a = some (.window b i)) :
    i + 4 ≤ 128 ∧ (b = .pl → i + 4 ≤ 112) := by
  unfold hostTarget at h
  split at h
  · rename_i hw
    have ha := hw.2
    generalize a.toNat = n at h ha
    have hn : windowAt n = some (.window b i) := by
      unfold registerAt at h
      split at h
      case h_17 => exact h
      all_goals cases h
    unfold windowAt at hn
    split_ifs at hn <;> cases hn <;> exact ⟨by omega, fun hb => by cases hb <;> omega⟩
  · cases h

theorem writeReg_inv {s : State} (h : Inv s) {w : Nat} {a : BitVec 12} {r : HostReg} (hr : hostTarget w a = some r) (v : Word) :
    Inv (writeReg r v s) := by
  cases r with
  | cmd => exact ⟨h.buffers, by simp [writeReg], h.version, h.txlen, h.strlen, h.attempts, h.phase, h.dataflag, h.unprobed⟩
  | status => exact h.hostFields _ _ _ _ _ _ _ _ _ _
  | adr =>
    unfold writeReg
    dsimp only
    split
    · exact h.hostFields _ _ _ _ _ _ _ _ _ _
    · exact h
    · exact h
  | cid => exact h.hostFields _ _ _ _ _ _ _ _ _ _
  | pllen => exact h.hostFields _ _ _ _ _ _ _ _ _ _
  | rxlen => exact h.hostFields _ _ _ _ _ _ _ _ _ _
  | window b i =>
    obtain ⟨hi, hpl⟩ := hostTarget_window hr
    cases b with
    | rx =>
      refine ⟨fun b => ?_, h.handshake, h.version, h.txlen, h.strlen, h.attempts, h.phase, h.dataflag, h.unprobed⟩
      cases b with
      | rx => exact (h.buffers .rx).writeAll hi
      | tx => exact h.buffers .tx
      | pl => exact h.buffers .pl
      | str => exact h.buffers .str
    | pl =>
      refine ⟨fun b => ?_, h.handshake, h.version, h.txlen, h.strlen, h.attempts, h.phase, h.dataflag, h.unprobed⟩
      cases b with
      | pl =>
        refine (h.buffers .pl).writeAll ?_
        have hlen := List.length_take_le (Buf.pl.size - i) (wordBytes v)
        have hend := hpl rfl
        simp only [Buf.size] at hlen ⊢
        omega
      | tx => exact h.buffers .tx
      | rx => exact h.buffers .rx
      | str => exact h.buffers .str
    | tx => exact h
    | str => exact h
  | _ => exact h

theorem hostWrite_inv {s : State} (h : Inv s) (w : Nat) (a : BitVec 12) (v : Word) : Inv (hostWrite w a v s) := by
  obtain ⟨b, o, hw, -, -⟩ | ⟨r, ht, -, hw⟩ := hostWrite_cases w a v s
  · rw [hw]
    exact h.hostFields _ _ _ _ _ _ _ _ _ _
  · rw [hw]
    exact writeReg_inv h ht v

theorem blockStep_inv {s t : State} (hs : Inv s) (h : blockStep s = .next t) : Inv t := by
  obtain ⟨-, rfl⟩ | ⟨-, i, -, he⟩ | ⟨-, -, rfl⟩ := blockStep_cases h
  · exact hs
  · exact exec_inv hs he
  · exact finish_inv hs _

/-- Settles O48: each kind of turn keeps the invariant. -/
theorem everyStepKeepsTheInvariant : Obligations.EveryStepKeepsTheInvariant := by
  intro s t hs h
  have hturns (ts : List Turn) : Inv { s with turns := ts } := hs.hostFields _ _ _ _ _ _ _ _ ts _
  obtain ⟨rest, -, rfl⟩ | ⟨w, a, rest, -, rfl⟩ | ⟨w, a, v, rest, -, rfl⟩ | ⟨-, hb⟩ := step_cases h
  · exact blockReset_inv _
  · exact hostRead_inv (hturns rest) w a
  · exact hostWrite_inv (hturns rest) w a v
  · exact blockStep_inv (hturns _) hb

end Sys2Proof.Machine
end

section
/-! Reset, STATUS and the operand registers (O1, O53, O54, O55). -/

namespace Sys2Proof.Machine

open Sys2Proof.Config

/-- Power-on and a block reset leave the same registers and buffers (70_reset_and_hazards.md R250): a reset of power-on is power-on. -/
theorem blockReset_powerOn : blockReset State.reset = State.reset := rfl

/-- After a reset no byte of any buffer has a value (10_state.md R44). -/
theorem blockReset_buf (s : State) (b : Buf) : (blockReset s).buf b = [] := by cases b <;> rfl

/-- Settles O1: power-on is itself a reset state, so that one list of reset values serves both. -/
theorem resetLeavesTheResetValues : Obligations.ResetLeavesTheResetValues := by
  refine ⟨fun s => ⟨rfl, rfl, rfl, rfl⟩, rfl, fun t ht => ?_⟩
  obtain ⟨s, rfl⟩ : ∃ s, t = blockReset s := by
    obtain rfl | h := ht
    · exact ⟨State.reset, blockReset_powerOn.symm⟩
    · exact h
  exact ⟨rfl, rfl, rfl, rfl, rfl, rfl, rfl, rfl, rfl, rfl, rfl, rfl, rfl, rfl, rfl, rfl, rfl, rfl, rfl, rfl, rfl,
    fun b i => by rw [blockReset_buf, Memory.read_nil]⟩

/-! ## Host writes of a register -/

/-- A host write of a mapped register is `writeReg`, for STATUS at any time and for the others while BUSY = 0 (20_memory.md R61). -/
theorem hostWrite_admitted {w : Nat} {a : BitVec 12} {r : HostReg} (v : Word) {s : State} (h : hostTarget w a = some r)
    (hb : s.busy = false ∨ a = statusAddr) : hostWrite w a v s = writeReg r v s := by
  have hb : ¬(s.busy = true ∧ a ≠ statusAddr) := by
    obtain h | h := hb <;> simp [h]
  simp [hostWrite, h, hb]

/-- Settles O53: STATUS takes a write whatever BUSY is. -/
theorem statusWriteClearsStickyBits : Obligations.StatusWriteClearsStickyBits :=
  fun v _ => hostWrite_admitted v (r := .status) rfl (.inr rfl)

/-- Settles O55: each address is its register's, which takes the write while BUSY = 0. -/
theorem hostWritesOperandRegisters : Obligations.HostWritesOperandRegisters := by
  intro v s hb
  refine ⟨hostWrite_admitted v (r := .rxlen) rfl (.inl hb), hostWrite_admitted v (r := .cid) rfl (.inl hb),
    hostWrite_admitted v (r := .pllen) rfl (.inl hb), ?_⟩
  rw [hostWrite_admitted v (r := .adr) rfl (.inl hb)]
  cases hm : s.mode <;> simp [writeReg, hm]

/-! ## The STATUS word -/

theorem Mode.code_le (m : Mode) : m.code ≤ 2 := by cases m <;> decide

theorem statusWord_toNat (s : State) : (statusWord s).toNat
    = s.busy.toNat + 2 * s.done.toNat + 4 * s.mode.code + 16 * s.overrun.toNat + 32 * s.nonhex.toNat + 64 * s.buserr.toNat := by
  have hm := s.mode.code_le
  have hb := s.busy.toNat_le
  have hd := s.done.toNat_le
  have ho := s.overrun.toNat_le
  have hn := s.nonhex.toNat_le
  have he := s.buserr.toNat_le
  rw [statusWord, BitVec.toNat_ofNat]
  omega

/-- A bit of a word, from its number. -/
theorem getLsbD_of_toNat {w : Word} {i : Nat} {b : Bool} (h : w.toNat / 2 ^ i % 2 = b.toNat) : w.getLsbD i = b := by
  rw [BitVec.getLsbD, Nat.testBit_eq_decide_div_mod_eq, h]
  cases b <;> rfl

/-- Settles O54: each field of the word's number at its weight. -/
theorem statusWordBits : Obligations.StatusWordBits := by
  intro s
  have hw := statusWord_toNat s
  have hm := s.mode.code_le
  have hb := s.busy.toNat_le
  have hd := s.done.toNat_le
  have ho := s.overrun.toNat_le
  have hn := s.nonhex.toNat_le
  have he := s.buserr.toNat_le
  refine ⟨getLsbD_of_toNat (by omega), getLsbD_of_toNat (by omega), BitVec.eq_of_toNat_eq ?_, getLsbD_of_toNat (by omega),
    getLsbD_of_toNat (by omega), getLsbD_of_toNat (by omega), fun i hi => getLsbD_of_toNat ?_⟩
  · have hcode : ((statusWord s).extractLsb' 2 2).toNat = s.mode.code := by
      rw [BitVec.extractLsb'_toNat, Nat.shiftRight_eq_div_pow]
      omega
    rw [hcode]
    cases s.mode <;> rfl
  · have hlt : (statusWord s).toNat < 2 ^ i := calc
      (statusWord s).toNat < 2 ^ 7 := by omega
      _ ≤ 2 ^ i := Nat.pow_le_pow_right (by decide) hi
    rw [Nat.div_eq_of_lt hlt]
    rfl

end Sys2Proof.Machine
end

section
/-! What an accepted tick publishes (44_pollfsm.md R180). `Batch` says exactly what a part of a handler adds to the store, the log and NONHEX; each handler is a chain of batches. -/

namespace Sys2Proof.Machine

open Sys2Proof.Config

/-! ## Batches -/

/-- From `s` to `t` the events `es` and the records `l` were added, and `x` says whether a character was met that is not a hex digit; a free value is drawn only then, and nothing else changes. -/
def Batch (es : List StoreEvent) (l : List LogRecord) (x : Bool) (s t : State) : Prop :=
  ∃ d, (x = false → d = s.draws)
    ∧ t = { s with store := applyEvents es s.store, log := s.log ++ l, nonhex := s.nonhex || x, draws := d }

section
variable {es fs : List StoreEvent} {l m : List LogRecord} {x y : Bool} {s t u : State} {reply : List Byte}

theorem Batch.refl (s : State) : Batch [] [] false s s := ⟨s.draws, fun _ => rfl, by simp⟩

theorem Batch.trans (h : Batch es l x s t) (g : Batch fs m y t u) : Batch (es ++ fs) (l ++ m) (x || y) s u := by
  obtain ⟨d, hd, rfl⟩ := h
  obtain ⟨e, he, rfl⟩ := g
  refine ⟨e, fun hxy => ?_, by simp [Bool.or_assoc]⟩
  obtain ⟨hx, hy⟩ := Bool.or_eq_false_iff.mp hxy
  exact (he hy).trans (hd hx)

theorem Batch.cfg (h : Batch es l x s t) : t.cfg = s.cfg := by
  obtain ⟨d, -, rfl⟩ := h
  rfl

theorem Batch.rx (h : Batch es l x s t) : t.rx = s.rx := by
  obtain ⟨d, -, rfl⟩ := h
  rfl

theorem Batch.store (h : Batch es l x s t) : t.store = applyEvents es s.store := by
  obtain ⟨d, -, rfl⟩ := h
  rfl

theorem Batch.emit (h : Batch es l x s t) (e : StoreEvent) : Batch (es ++ [e]) l x s (emit e t) := by
  obtain ⟨d, hd, rfl⟩ := h
  exact ⟨d, hd, by simp [Machine.emit]⟩

theorem Batch.emitIf (h : Batch es l x s t) (c : Bool) (e : StoreEvent) :
    Batch (es ++ if c then [e] else []) l x s (emitIf c e t) := by
  cases c with
  | false => simpa [Machine.emitIf] using h
  | true => exact h.emit e

theorem Batch.logRec (h : Batch es l x s t) (c : LogCode) (a : Int) :
    Batch es (l ++ [{ code := c, arg := a }]) x s (logRec c a t) := by
  obtain ⟨d, hd, rfl⟩ := h
  exact ⟨d, hd, by simp [Machine.logRec]⟩

theorem Batch.logAnomaly {α : Type} (h : Batch es l x s t) (r : Option α) [Decidable (r = none)] (c : LogCode) (v : Nat) :
    Batch es (l ++ if r = none then [{ code := c, arg := v }] else []) x s (logAnomaly r c v t) := by
  cases r with
  | none => simpa [Machine.logAnomaly] using h.logRec c v
  | some a => simpa [Machine.logAnomaly] using h

/-- The event that publishes a mapped value (44_pollfsm.md R194): none where the map gave ANOMALY. -/
def mappedFact {α : Type} (r : Option α) (id : FactId) (g : α → FactValue) : List StoreEvent :=
  match r with
  | some v => [.fact id (g v)]
  | none => []

theorem Batch.publishMapped {α : Type} (h : Batch es l x s t) (r : Option α) [Decidable (r = none)] (g : α → FactValue)
    (c : LogCode) (v : Nat) (id : FactId) :
    Batch (es ++ mappedFact r id g) (l ++ if r = none then [{ code := c, arg := v }] else []) x s
      (publishMapped (r.map g) c v id t) := by
  cases r with
  | none => simpa [Machine.publishMapped, mappedFact] using h.logRec c v
  | some a => simpa [Machine.publishMapped, mappedFact] using h.emit (.fact id (g a))

/-- A field that lies inside the reply has the value of its characters, or a free one where some is not a hex digit (42_hexdecode.md R130). -/
theorem Batch.readHex (h : Batch es l x s t) (hrx : HoldsOnly s.rx reply) {off len : Nat} (hl : off + len ≤ reply.length)
    (hlen : len ≤ 15) :
    HexValue (charsAt reply off len) (readHex off len t).1
    ∧ Batch es l (x || hasNonhex (charsAt reply off len)) s (readHex off len t).2 := by
  have hle : (charsAt reply off len).length ≤ 15 := (List.length_take_le _ _).trans hlen
  rw [readHex_reply (h.rx.symm ▸ hrx) hl]
  change HexValue (charsAt reply off len) (hexval (charsAt reply off len) t).1
    ∧ Batch es l (x || hasNonhex (charsAt reply off len)) s (hexval (charsAt reply off len) t).2
  cases hp : parseHex (charsAt reply off len) with
  | some v =>
    rw [hexval_parsed t hle hp]
    exact ⟨by simp [HexValue, hp], by simpa [hasNonhex, hp] using h⟩
  | none =>
    obtain ⟨d, -, rfl⟩ := h
    rw [hexval_free _ hle hp]
    exact ⟨by simpa [HexValue, hp] using BitVec.isLt _, d + 1, by simp [hasNonhex, hp], by simp [hasNonhex, hp]⟩

/-- A two-character field: its value, or a free byte. -/
theorem Batch.readHexByte (h : Batch es l x s t) (hrx : HoldsOnly s.rx reply) {off : Nat} (hl : off + 2 ≤ reply.length) :
    ByteField (charsAt reply off 2) (readHexByte off t).1
    ∧ Batch es l (x || hasNonhex (charsAt reply off 2)) s (readHexByte off t).2 := by
  obtain ⟨hv, hb⟩ := h.readHex hrx hl (by decide)
  refine ⟨?_, hb⟩
  have hlt := readHexByte_lt off t
  unfold ByteField
  unfold HexValue at hv
  cases hp : parseHex (charsAt reply off 2) with
  | none => exact hlt
  | some v =>
    rw [hp] at hv
    have hv256 : v < 16 ^ 2 := (parseHex_lt hp).trans_le (Nat.pow_le_pow_right (by decide) (List.length_take_le _ _))
    change (Machine.readHex off 2 t).1 % 256 = v
    rw [hv]
    exact Nat.mod_eq_of_lt hv256

end

/-! ## The tick around its handler -/

theorem stored_writeAll (m : Memory) (bs : List Byte) : Stored m (Memory.writeAll m 0 bs) bs := fun i => by
  simpa using Memory.read_writeAll m 0 bs i

/-- An answered exchange (43_exchange_dispatch.md R150), in the terms of the statements. -/
theorem exchange_answered {s : State} {sends : List Int} {recvs : List RecvAnswer} {reply c : List Byte}
    (ha : AnswersReply s sends recvs reply) (hc : c.length = 4) (p : List Byte) :
    exchange c p s = exchanged (Memory.writeAll s.tx 0 (frameOf s c p)) (Memory.writeAll [] 0 reply) (frameOf s c p) reply
      sends recvs s := by
  obtain ⟨r, first, rest, hr, hs, hq, rfl⟩ := ha
  have hlen : (frameOf s c p).length = 18 + p.length := buildFrame_length _ _ hc (chars2_length _) (chars2_length _)
  rw [exchange_replied c p hr hs hq, exchanged, hlen]
  rfl

/-- An answered exchange whose reply is long enough and carries return code 0 is accepted (41_codec.md R107). -/
theorem exchangeAccept_answered {s : State} {sends : List Int} {recvs : List RecvAnswer} {reply c : List Byte}
    (ha : AnswersReply s sends recvs reply) (hc : c.length = 4) (p : List Byte) (hverify : s.cfg.verifyRx = false) {m : Nat}
    (hm : m ≤ reply.length) (h9 : 9 ≤ reply.length) (hrc : parseHex (charsAt reply 7 2) = some 0) :
    exchangeAccept c p m true s = (.ok, accepted reply (exchanged (Memory.writeAll s.tx 0 (frameOf s c p))
      (Memory.writeAll [] 0 reply) (frameOf s c p) reply sends recvs s)) := by
  have hlen : reply.length ≤ 128 := by
    obtain ⟨_, _, _, -, -, -, rfl⟩ := ha
    exact List.length_take_le _ _
  rw [exchangeAccept, exchange_answered ha hc, accept_eq_validate (by exact hverify)]
  exact validate_reply (Memory.read_writeAll_nil reply) (toInt_count hlen) hm h9 hrc

/-- An accepted reply in the tick's own phase (44_pollfsm.md R180): the exchange, its acceptance, then the batch. -/
theorem tick_accepted {s : State} {sends : List Int} {recvs : List RecvAnswer} {reply : List Byte} (hmode : s.mode = .running)
    (hverify : s.cfg.verifyRx = false) (ha : AnswersReply s sends recvs reply) (hl : minReply s.phase ≤ reply.length)
    (hrc : parseHex (charsAt reply 7 2) = some 0) :
    ∃ tx rx, Stored s.tx tx (frameOf s (asciiChars4 (reqCid s.cfg s.phase)) (reqPayload s.cfg s.phase)) ∧ HoldsOnly rx reply
      ∧ exec .tick s = .next (finish .ok (tickPublish s.phase (accepted reply (exchanged tx rx
          (frameOf s (asciiChars4 (reqCid s.cfg s.phase)) (reqPayload s.cfg s.phase)) reply sends recvs s)))) := by
  have hmin : 33 ≤ minReply s.phase := by cases s.phase <;> decide
  have hx := exchangeAccept_answered ha (asciiChars4_length (reqCid s.cfg s.phase)) (reqPayload s.cfg s.phase) hverify hl
    (by omega) hrc
  refine ⟨_, _, stored_writeAll s.tx _, Memory.read_writeAll_nil reply, ?_⟩
  rw [exec_allowed (i := .tick) (by rw [hmode]; rfl)]
  simp only [bodyOf, tickBody, hx, if_true]

/-- What the handler publishes is what the tick publishes, with the data flag (44_pollfsm.md R183), PHASE and MARK_FRESH. -/
theorem tickPublish_of_batch {ph : Phase} {s : State} {reply : List Byte} (hrx : HoldsOnly s.rx reply) (hl : 33 ≤ reply.length) :
    ∃ df w, ByteField (charsAt reply (13 + s.cfg.dataflagOff) 2) df ∧ w.cfg = s.cfg ∧ w.store = s.store ∧ HoldsOnly w.rx reply
      ∧ ∀ es l x, Batch es l x w (phaseHandler ph df w).2 →
        ∃ d, (hasNonhex (charsAt reply (13 + s.cfg.dataflagOff) 2) = false → x = false → d = s.draws)
          ∧ tickPublish ph s = { published (phaseHandler ph df w).1 df es l
              (hasNonhex (charsAt reply (13 + s.cfg.dataflagOff) 2) || x) s with draws := d } := by
  obtain ⟨hdf, hb⟩ := (Batch.refl s).readHexByte hrx (off := 13 + s.cfg.dataflagOff) (by omega)
  generalize hr : readHexByte (13 + s.cfg.dataflagOff) s = r at hdf hb
  obtain ⟨df, v⟩ := r
  refine ⟨df, { v with dataflag := BitVec.ofNat 8 df }, hdf, hb.cfg, hb.store, ?_, fun es l x h => ?_⟩
  · exact (congrArg (fun rx => HoldsOnly rx reply) hb.rx).mpr hrx
  · obtain ⟨d, hd, rfl⟩ := hb
    obtain ⟨e, he, h⟩ := h
    refine ⟨e, fun hx hy => (he hy).trans (hd (by simpa using hx)), ?_⟩
    simp only [tickPublish, dataflagOffset, headerLen, hr]
    rw [h]
    simp [emit, published, Bool.or_assoc]

/-- A successful tick (44_pollfsm.md R180): whatever batch the phase's handler publishes. -/
theorem tick_of_batch {s : State} {ph : Phase} {sends : List Int} {recvs : List RecvAnswer} {reply : List Byte} (hmode : s.mode = .running)
    (hphase : s.phase = ph) (hverify : s.cfg.verifyRx = false) (ha : AnswersReply s sends recvs reply) (hl : minReply ph ≤ reply.length)
    (hrc : parseHex (charsAt reply 7 2) = some 0) :
    ∃ tx rx df w, Stored s.tx tx (frameOf s (asciiChars4 (reqCid s.cfg ph)) (reqPayload s.cfg ph)) ∧ HoldsOnly rx reply
      ∧ ByteField (charsAt reply (13 + s.cfg.dataflagOff) 2) df ∧ w.cfg = s.cfg ∧ w.store = s.store ∧ HoldsOnly w.rx reply
      ∧ ∀ es l x, Batch es l x w (phaseHandler ph df w).2 →
        ∃ d u, (hasNonhex (charsAt reply (13 + s.cfg.dataflagOff) 2) = false → x = false → d = s.draws)
          ∧ exec .tick s = .next u ∧ u.store = applyEvents (es ++ [.markFresh]) s.store
          ∧ u = ended .ok (published (phaseHandler ph df w).1 df es l
              (hasNonhex (charsAt reply (13 + s.cfg.dataflagOff) 2) || x)
              (accepted reply (exchanged tx rx (frameOf s (asciiChars4 (reqCid s.cfg ph)) (reqPayload s.cfg ph)) reply
                sends recvs { s with draws := d }))) := by
  subst hphase
  have hmin : 33 ≤ minReply s.phase := by cases s.phase <;> decide
  obtain ⟨tx, rx, htx, hrx, hexec⟩ := tick_accepted hmode hverify ha hl hrc
  obtain ⟨df, w, hdf, hcfg, hstore, hw, hpub⟩ := tickPublish_of_batch (ph := s.phase) (s := accepted reply (exchanged tx rx
    (frameOf s (asciiChars4 (reqCid s.cfg s.phase)) (reqPayload s.cfg s.phase)) reply sends recvs s)) hrx (by omega)
  refine ⟨tx, rx, df, w, htx, hrx, hdf, hcfg, hstore, hw, fun es l x h => ?_⟩
  obtain ⟨d, hd, hp⟩ := hpub es l x h
  refine ⟨d, _, hd, ?_, rfl, rfl⟩
  rw [hexec, hp, finish_unlogged rfl]
  rfl

end Sys2Proof.Machine
end

section
/-! The ONOFF tick (44_pollfsm.md R194). -/

namespace Sys2Proof.Machine

open Sys2Proof.Config

/-! ## What committed events leave in the store -/

/-- A status transaction commits exactly its set (10_state.md R41). -/
@[simp] theorem applyEvents_statusEvents_status (f : StatusSet) (t : Store) : (applyEvents (statusEvents f) t).status = f := by
  obtain ⟨_ | _, _ | _, _ | _⟩ := f <;> rfl

@[simp] theorem applyEvents_statusEvents_alarms (f : StatusSet) (t : Store) :
    (applyEvents (statusEvents f) t).alarms = t.alarms := by
  obtain ⟨_ | _, _ | _, _ | _⟩ := f <;> rfl

@[simp] theorem applyEvents_statusEvents_facts (f : StatusSet) (t : Store) : (applyEvents (statusEvents f) t).facts = t.facts := by
  obtain ⟨_ | _, _ | _, _ | _⟩ := f <;> rfl

@[simp] theorem factOf_applyEvents_statusEvents (f : StatusSet) (t : Store) (k : FactId) :
    Store.factOf (applyEvents (statusEvents f) t) k = Store.factOf t k := by
  rw [Store.factOf, applyEvents_statusEvents_facts]
  rfl

/-! ## The handler -/

section
variable {s : State} {reply : List Byte}

/-- The four fields of the ONOFF handler lie inside the reply (44_pollfsm.md R199). -/
theorem readOnoff_batch (hrx : HoldsOnly s.rx reply) (hl : 33 ≤ reply.length) :
    ByteField (charsAt reply (13 + s.cfg.onoffLayout.psrc) 2) (readOnoff s).1.p
    ∧ ByteField (charsAt reply (13 + s.cfg.onoffLayout.rsrc) 2) (readOnoff s).1.r
    ∧ ByteField (charsAt reply (13 + s.cfg.onoffLayout.chg) 2) (readOnoff s).1.c
    ∧ ByteField (charsAt reply (13 + s.cfg.onoffLayout.test) 2) (readOnoff s).1.t
    ∧ Batch [] [] (hasNonhex (charsAt reply (13 + s.cfg.onoffLayout.psrc) 2)
        || hasNonhex (charsAt reply (13 + s.cfg.onoffLayout.rsrc) 2) || hasNonhex (charsAt reply (13 + s.cfg.onoffLayout.chg) 2)
        || hasNonhex (charsAt reply (13 + s.cfg.onoffLayout.test) 2)) s (readOnoff s).2 := by
  obtain ⟨hp, b⟩ := (Batch.refl s).readHexByte hrx (off := 13 + s.cfg.onoffLayout.psrc) (by omega)
  obtain ⟨hr, b⟩ := b.readHexByte hrx (off := 13 + s.cfg.onoffLayout.rsrc) (by omega)
  obtain ⟨hc, b⟩ := b.readHexByte hrx (off := 13 + s.cfg.onoffLayout.chg) (by omega)
  obtain ⟨ht, b⟩ := b.readHexByte hrx (off := 13 + s.cfg.onoffLayout.test) (by omega)
  rw [Bool.false_or] at b
  unfold readOnoff
  dsimp only [headerLen]
  exact ⟨hp, hr, hc, ht, b⟩

/-- The union of the two mapped status sets (44_pollfsm.md R194). -/
def onoffStatus (cfg : Params) (f : OnoffFields) : StatusSet :=
  StatusSet.union (mappedStatus (mapCode cfg.statusMapP f.p)) (mappedStatus (mapCode cfg.statusMapR f.r))

/-- The events of the ONOFF handler for its fields. -/
def onoffEvents (cfg : Params) (f : OnoffFields) : List StoreEvent :=
  statusEvents (onoffStatus cfg f)
    ++ mappedFact (mapCharger cfg.chgMap f.c) .chargerStatus .charger
    ++ mappedFact (mapCode cfg.testMap f.t) .batteryTest .test

/-- The records of the ONOFF handler for its fields. -/
def onoffRecords (cfg : Params) (f : OnoffFields) : List LogRecord :=
  (if mapCode cfg.statusMapP f.p = none then [⟨.anomalyPsrc, f.p⟩] else [])
    ++ (if mapCode cfg.statusMapR f.r = none then [⟨.anomalyRsrc, f.r⟩] else [])
    ++ (if mapCharger cfg.chgMap f.c = none then [⟨.anomalyChg, f.c⟩] else [])
    ++ (if mapCode cfg.testMap f.t = none then [⟨.anomalyTest, f.t⟩] else [])

theorem publishOnoff_batch (f : OnoffFields) (t : State) :
    Batch (onoffEvents t.cfg f) (onoffRecords t.cfg f) false t (publishOnoff f t) := by
  have b := (((Batch.refl t).emit .statusInit).logAnomaly (mapCode t.cfg.statusMapP f.p) .anomalyPsrc f.p).logAnomaly
    (mapCode t.cfg.statusMapR f.r) .anomalyRsrc f.r
  have b := ((b.emitIf (onoffStatus t.cfg f).onLine (.statusSet .onLine)).emitIf (onoffStatus t.cfg f).onBattery
    (.statusSet .onBattery)).emitIf (onoffStatus t.cfg f).bypass (.statusSet .bypass)
  have b := ((b.emit .statusCommit).publishMapped (mapCharger t.cfg.chgMap f.c) .charger .anomalyChg f.c
    .chargerStatus).publishMapped (mapCode t.cfg.testMap f.t) .test .anomalyTest f.t .batteryTest
  simp only [List.nil_append] at b
  exact b

/-- The ONOFF handler publishes what its four fields say. -/
theorem onoffHandler_batch (df : Nat) (hrx : HoldsOnly s.rx reply) (hl : 33 ≤ reply.length) :
    ∃ f : OnoffFields, ByteField (charsAt reply (13 + s.cfg.onoffLayout.psrc) 2) f.p
      ∧ ByteField (charsAt reply (13 + s.cfg.onoffLayout.rsrc) 2) f.r
      ∧ ByteField (charsAt reply (13 + s.cfg.onoffLayout.chg) 2) f.c
      ∧ ByteField (charsAt reply (13 + s.cfg.onoffLayout.test) 2) f.t
      ∧ (onoffHandler df s).1 = flagOverride s.cfg df .analog
      ∧ Batch (onoffEvents s.cfg f) (onoffRecords s.cfg f) (hasNonhex (charsAt reply (13 + s.cfg.onoffLayout.psrc) 2)
        || hasNonhex (charsAt reply (13 + s.cfg.onoffLayout.rsrc) 2) || hasNonhex (charsAt reply (13 + s.cfg.onoffLayout.chg) 2)
        || hasNonhex (charsAt reply (13 + s.cfg.onoffLayout.test) 2)) s (onoffHandler df s).2 := by
  obtain ⟨hp, hr, hc, ht, hread⟩ := readOnoff_batch hrx hl
  have hpub := publishOnoff_batch (readOnoff s).1 (readOnoff s).2
  rw [hread.cfg] at hpub
  have hb := hread.trans hpub
  simp only [List.nil_append, Bool.or_false] at hb
  unfold onoffHandler
  dsimp only
  exact ⟨(readOnoff s).1, hp, hr, hc, ht, rfl, hb⟩

end

/-- The store after the events of the ONOFF handler and MARK_FRESH (10_state.md R41). -/
theorem applyEvents_onoff {cfg : Params} {f : OnoffFields} {t u : Store}
    (hu : u = applyEvents (onoffEvents cfg f ++ [.markFresh]) t) :
    u.status = onoffStatus cfg f
    ∧ Store.factOf u .chargerStatus
      = (match mapCharger cfg.chgMap f.c with | some v => some (.charger v) | none => Store.factOf t .chargerStatus)
    ∧ Store.factOf u .batteryTest
      = (match mapCode cfg.testMap f.t with | some v => some (.test v) | none => Store.factOf t .batteryTest)
    ∧ u.alarms = t.alarms ∧ u.mark = .fresh := by
  subst hu
  cases hc : mapCharger cfg.chgMap f.c <;> cases ht : mapCode cfg.testMap f.t <;>
    simp [onoffEvents, mappedFact, hc, ht, FactId.index]

/-- Settles O41: the four fields, then what they publish. -/
theorem onoffTickPublishes : Obligations.OnoffTickPublishes := by
  intro s sends recvs reply hmode hphase hverify ha hl hrc
  obtain ⟨tx, rx, df, w, htx, hrx, hdf, hcfg, -, hw, hpub⟩ := tick_of_batch hmode hphase hverify ha hl hrc
  simp only [phaseHandler, reqCid, reqPayload] at htx hpub
  obtain ⟨f, hp, hr, hc, ht, hnext, hb⟩ := onoffHandler_batch df hw hl
  obtain ⟨d, u, -, hexec, hstore', hu⟩ := hpub _ _ _ hb
  rw [hcfg] at hp hr hc ht hstore'
  rw [hnext, hcfg] at hu
  obtain ⟨hstatus, hcharger, htest, halarms, hmark⟩ := applyEvents_onoff hstore'
  refine ⟨tx, rx, df, f.p, f.r, f.c, f.t, d, u, htx, hrx, hdf, hp, hr, hc, ht, hexec, hstatus, hcharger, htest, halarms, hmark, ?_⟩
  rw [hu]
  simp only [← Bool.or_assoc, onoffEvents, onoffRecords]
  congr 2
  cases mapCharger s.cfg.chgMap f.c <;> cases mapCode s.cfg.testMap f.t <;> rfl

end Sys2Proof.Machine
end

section
/-! The SYSPARAM tick (44_pollfsm.md R198). -/

namespace Sys2Proof.Machine

open Sys2Proof.Config

section
variable {es : List StoreEvent} {l : List LogRecord} {x : Bool} {s t : State} {reply : List Byte}

/-- A SYSPARAM field lies inside the reply (44_pollfsm.md R199). -/
theorem Batch.readSysField (h : Batch es l x s t) (hrx : HoldsOnly s.rx reply) (hl : 119 ≤ reply.length) (f : SysField) :
    SysFieldValue reply f (readSysField f t).1
    ∧ Batch es l (x || hasNonhex (sysFieldChars reply f)) s (readSysField f t).2 := by
  cases f with
  | two k => exact h.readHexByte hrx (off := 13 + k) (by omega)
  | four k => exact h.readHex hrx (off := 13 + k) (by omega) (by decide)

/-- The seven values are those of the fields of the reply (44_pollfsm.md R198). -/
def SysFieldsOf (reply : List Byte) (y : SysLayout) (f : SysFields) : Prop :=
  SysFieldValue reply y.nomv f.nv ∧ SysFieldValue reply y.nomf f.nf ∧ SysFieldValue reply y.byph f.bh
  ∧ SysFieldValue reply y.byphe f.bhe ∧ SysFieldValue reply y.bypl f.bl ∧ SysFieldValue reply y.byple f.ble
  ∧ SysFieldValue reply y.tint f.ti

/-- Whether one of the seven fields holds a character that is not a hex digit. -/
def sysNonhex (reply : List Byte) (y : SysLayout) : Bool :=
  [y.nomv, y.nomf, y.byph, y.byphe, y.bypl, y.byple, y.tint].any fun f => hasNonhex (sysFieldChars reply f)

theorem readSys_batch (hrx : HoldsOnly s.rx reply) (hl : 119 ≤ reply.length) :
    SysFieldsOf reply s.cfg.sysLayout (readSys s).1 ∧ Batch [] [] (sysNonhex reply s.cfg.sysLayout) s (readSys s).2 := by
  obtain ⟨hnv, b⟩ := (Batch.refl s).readSysField hrx hl s.cfg.sysLayout.nomv
  obtain ⟨hnf, b⟩ := b.readSysField hrx hl s.cfg.sysLayout.nomf
  obtain ⟨hbh, b⟩ := b.readSysField hrx hl s.cfg.sysLayout.byph
  obtain ⟨hbhe, b⟩ := b.readSysField hrx hl s.cfg.sysLayout.byphe
  obtain ⟨hbl, b⟩ := b.readSysField hrx hl s.cfg.sysLayout.bypl
  obtain ⟨hble, b⟩ := b.readSysField hrx hl s.cfg.sysLayout.byple
  obtain ⟨hti, b⟩ := b.readSysField hrx hl s.cfg.sysLayout.tint
  simp only [Bool.false_or, Bool.or_assoc] at b
  unfold readSys
  simp only [SysFieldsOf, sysNonhex, List.any_cons, List.any_nil, Bool.or_false]
  exact ⟨⟨hnv, hnf, hbh, hbhe, hbl, hble, hti⟩, b⟩

/-- The facts of the SYSPARAM handler for its fields. -/
def sysEvents (k : SysScale) (f : SysFields) : List StoreEvent :=
  [StoreEvent.fact FactId.nominalOutputVoltage (FactValue.number (f.nv * scalingValue k.nomv)),
    StoreEvent.fact FactId.nominalOutputFrequency (FactValue.number (f.nf * scalingValue k.nomf))]
    ++ (if f.bhe = 1 then [StoreEvent.fact FactId.bypassHighThreshold (FactValue.number (f.bh * scalingValue k.byph))] else [])
    ++ (if f.ble = 1 then [StoreEvent.fact FactId.bypassLowThreshold (FactValue.number (f.bl * scalingValue k.bypl))] else [])
    ++ [StoreEvent.fact FactId.batteryTestInterval (FactValue.number (f.ti * 324000))]

theorem publishSys_batch (f : SysFields) (t : State) : Batch (sysEvents t.cfg.sysScale f) [] false t (publishSys f t) := by
  have b := ((Batch.refl t).emit (.fact .nominalOutputVoltage (.number (f.nv * scalingValue t.cfg.sysScale.nomv)))).emit
    (.fact .nominalOutputFrequency (.number (f.nf * scalingValue t.cfg.sysScale.nomf)))
  have b := (b.emitIf (f.bhe == 1) (.fact .bypassHighThreshold (.number (f.bh * scalingValue t.cfg.sysScale.byph)))).emitIf
    (f.ble == 1) (.fact .bypassLowThreshold (.number (f.bl * scalingValue t.cfg.sysScale.bypl)))
  have b := b.emit (.fact .batteryTestInterval (.number (f.ti * 3 * 108000)))
  have hti : (f.ti : ℚ) * 3 * 108000 = f.ti * 324000 := by ring
  simp only [beq_iff_eq, List.nil_append, List.singleton_append] at b
  unfold publishSys sysEvents
  rw [← hti]
  exact b

/-- The SYSPARAM handler publishes what its seven fields say. -/
theorem sysparamHandler_batch (hrx : HoldsOnly s.rx reply) (hl : 119 ≤ reply.length) :
    ∃ f, SysFieldsOf reply s.cfg.sysLayout f ∧ (sysparamHandler s).1 = .warning
      ∧ Batch (sysEvents s.cfg.sysScale f) [] (sysNonhex reply s.cfg.sysLayout) s (sysparamHandler s).2 := by
  obtain ⟨hf, hread⟩ := readSys_batch hrx hl
  have hpub := publishSys_batch (readSys s).1 (readSys s).2
  rw [hread.cfg] at hpub
  have hb := hread.trans hpub
  simp only [List.nil_append, Bool.or_false] at hb
  unfold sysparamHandler
  exact ⟨(readSys s).1, hf, rfl, hb⟩

end

/-- The store after the facts of the SYSPARAM handler and MARK_FRESH (10_state.md R41). -/
theorem applyEvents_sys {k : SysScale} {f : SysFields} {t u : Store} (hu : u = applyEvents (sysEvents k f ++ [.markFresh]) t) :
    Store.factOf u .nominalOutputVoltage = some (.number (f.nv * scalingValue k.nomv))
    ∧ Store.factOf u .nominalOutputFrequency = some (.number (f.nf * scalingValue k.nomf))
    ∧ Store.factOf u .bypassHighThreshold
      = (if f.bhe = 1 then some (.number (f.bh * scalingValue k.byph)) else Store.factOf t .bypassHighThreshold)
    ∧ Store.factOf u .bypassLowThreshold
      = (if f.ble = 1 then some (.number (f.bl * scalingValue k.bypl)) else Store.factOf t .bypassLowThreshold)
    ∧ Store.factOf u .batteryTestInterval = some (.number (f.ti * 324000))
    ∧ u.status = t.status ∧ u.alarms = t.alarms ∧ u.mark = .fresh := by
  subst hu
  by_cases hbh : f.bhe = 1 <;> by_cases hbl : f.ble = 1 <;> simp [sysEvents, hbh, hbl, FactId.index]

/-! ## Fields of hex digits -/

theorem hasNonhex_of_parse {bs : List Byte} {v : Nat} (h : parseHex bs = some v) : hasNonhex bs = false := by
  simp [hasNonhex, h]

/-- A field of hex digits has their value, whatever its width. -/
theorem SysFieldValue.eq_of_parse {reply : List Byte} {f : SysField} {v w : Nat} (h : SysFieldValue reply f w)
    (hp : parseHex (sysFieldChars reply f) = some v) : w = v := by
  cases f <;> simpa [SysFieldValue, ByteField, HexValue, hp] using h

/-- The seven fields are hex digits, with these values. -/
def SysParses (reply : List Byte) (y : SysLayout) (f : SysFields) : Prop :=
  parseHex (sysFieldChars reply y.nomv) = some f.nv ∧ parseHex (sysFieldChars reply y.nomf) = some f.nf
  ∧ parseHex (sysFieldChars reply y.byph) = some f.bh ∧ parseHex (sysFieldChars reply y.byphe) = some f.bhe
  ∧ parseHex (sysFieldChars reply y.bypl) = some f.bl ∧ parseHex (sysFieldChars reply y.byple) = some f.ble
  ∧ parseHex (sysFieldChars reply y.tint) = some f.ti

theorem SysFieldsOf.eq_of_parses {reply : List Byte} {y : SysLayout} {f g : SysFields} (hf : SysFieldsOf reply y f)
    (hg : SysParses reply y g) : f = g := by
  obtain ⟨hnv, hnf, hbh, hbhe, hbl, hble, hti⟩ := hf
  obtain ⟨pnv, pnf, pbh, pbhe, pbl, pble, pti⟩ := hg
  cases f
  cases g
  rw [SysFields.mk.injEq]
  exact ⟨hnv.eq_of_parse pnv, hnf.eq_of_parse pnf, hbh.eq_of_parse pbh, hbhe.eq_of_parse pbhe, hbl.eq_of_parse pbl,
    hble.eq_of_parse pble, hti.eq_of_parse pti⟩

theorem SysParses.sysNonhex_eq {reply : List Byte} {y : SysLayout} {f : SysFields} (h : SysParses reply y f) :
    sysNonhex reply y = false := by
  obtain ⟨pnv, pnf, pbh, pbhe, pbl, pble, pti⟩ := h
  simp [sysNonhex, hasNonhex, pnv, pnf, pbh, pbhe, pbl, pble, pti]

/-- Settles O44: hex digits fix the seven values and draw nothing. -/
theorem sysparamTickPublishes : Obligations.SysparamTickPublishes := by
  intro s sends recvs reply hmode hphase hverify ha hl hrc df nv nf bh bhe bl ble ti hdf hfields
  have hparse : ∀ q ∈ [(s.cfg.sysLayout.nomv, nv), (s.cfg.sysLayout.nomf, nf), (s.cfg.sysLayout.byph, bh),
      (s.cfg.sysLayout.byphe, bhe), (s.cfg.sysLayout.bypl, bl), (s.cfg.sysLayout.byple, ble), (s.cfg.sysLayout.tint, ti)],
      parseHex (sysFieldChars reply q.1) = some q.2 := by
    intro q hq
    have h := hfields q hq
    obtain ⟨f, v⟩ := q
    cases f <;> exact h
  simp only [List.forall_mem_cons] at hparse
  obtain ⟨pnv, pnf, pbh, pbhe, pbl, pble, pti, -⟩ := hparse
  have hg : SysParses reply s.cfg.sysLayout ⟨nv, nf, bh, bhe, bl, ble, ti⟩ := ⟨pnv, pnf, pbh, pbhe, pbl, pble, pti⟩
  obtain ⟨tx, rx, df', w, htx, hrx, hdf', hcfg, -, hw, hpub⟩ := tick_of_batch hmode hphase hverify ha hl hrc
  simp only [phaseHandler, reqCid, reqPayload] at htx hpub
  obtain ⟨f, hf, hnext, hb⟩ := sysparamHandler_batch hw hl
  rw [hcfg] at hf hb
  obtain rfl := hf.eq_of_parses hg
  obtain rfl : df' = df := by simpa [ByteField, hdf] using hdf'
  obtain ⟨d, u, hd, hexec, hstore', hu⟩ := hpub _ _ _ hb
  obtain rfl := hd (hasNonhex_of_parse hdf) hg.sysNonhex_eq
  rw [hnext, hg.sysNonhex_eq, hasNonhex_of_parse hdf] at hu
  obtain ⟨gnv, gnf, gbh, gbl, gti, hstatus, halarms, hmark⟩ := applyEvents_sys hstore'
  exact ⟨tx, rx, u, htx, hrx, hexec, gnv, gnf, gbh, gbl, gti, hstatus, halarms, hmark, hu⟩

end Sys2Proof.Machine
end

section
/-! The ANALOG tick (44_pollfsm.md R195, R196). -/

namespace Sys2Proof.Machine

open Sys2Proof.Config

/-- The nine fields lie inside the reply (44_pollfsm.md R199). -/
theorem analogOffset_le (y : AnalogLayout) (k : AnalogFact) : analogOffset y k + 4 ≤ 99 := by
  cases k <;> simp only [analogOffset, headerLen] <;> omega

/-- The event of an analog fact with the raw values `raw` (44_pollfsm.md R195). -/
def analogEvent (raw : AnalogFact → Nat) (k : AnalogFact) : StoreEvent := .fact (.analog k) (.number (raw k * analogScale k))

/-- All nine facts, in the table's order (44_pollfsm.md R195). -/
def analogFacts : List AnalogFact := .inputVoltage :: laterAnalogFacts

/-- Whether the fields of some facts hold a character that is not a hex digit. -/
def analogNonhex (reply : List Byte) (y : AnalogLayout) (ks : List AnalogFact) : Bool :=
  ks.any fun k => hasNonhex (charsAt reply (analogOffset y k) 4)

section
variable {es : List StoreEvent} {l : List LogRecord} {x : Bool} {s t : State} {reply : List Byte}

/-- One fact: its value is the field's, and the event publishes it. -/
theorem Batch.publishAnalog (h : Batch es l x s t) (hrx : HoldsOnly s.rx reply) (hl : 99 ≤ reply.length) (k : AnalogFact) :
    HexValue (charsAt reply (analogOffset s.cfg.analogLayout k) 4) (publishAnalog k t).1
    ∧ Batch (es ++ [.fact (.analog k) (.number ((publishAnalog k t).1 * analogScale k))]) l
      (x || hasNonhex (charsAt reply (analogOffset s.cfg.analogLayout k) 4)) s (publishAnalog k t).2 := by
  obtain ⟨hv, hb⟩ := h.readHex hrx ((analogOffset_le s.cfg.analogLayout k).trans hl) (by decide)
  unfold Machine.publishAnalog
  rw [h.cfg]
  exact ⟨hv, hb.emit _⟩

/-- The facts in the given order: `raw` takes the values read, and keeps `raw₀` elsewhere. -/
theorem Batch.publishAnalogs (h : Batch es l x s t) (hrx : HoldsOnly s.rx reply) (hl : 99 ≤ reply.length) {ks : List AnalogFact}
    (hks : ks.Nodup) {raw₀ : AnalogFact → Nat}
    (hraw₀ : ∀ k, HexValue (charsAt reply (analogOffset s.cfg.analogLayout k) 4) (raw₀ k)) :
    ∃ raw : AnalogFact → Nat, (∀ k ∉ ks, raw k = raw₀ k)
      ∧ (∀ k, HexValue (charsAt reply (analogOffset s.cfg.analogLayout k) 4) (raw k))
      ∧ Batch (es ++ ks.map (analogEvent raw)) l (x || analogNonhex reply s.cfg.analogLayout ks) s (publishAnalogs ks t) := by
  induction ks generalizing es x t raw₀ with
  | nil => exact ⟨raw₀, fun _ _ => rfl, hraw₀, by simpa [analogNonhex, Machine.publishAnalogs] using h⟩
  | cons k ks ih =>
    obtain ⟨hk, hks⟩ := List.nodup_cons.mp hks
    obtain ⟨hv, hb⟩ := h.publishAnalog hrx hl k
    obtain ⟨raw, hout, hall, hb⟩ := ih hb hks ((Function.forall_update_iff raw₀ _).mpr ⟨hv, fun j _ => hraw₀ j⟩)
    have hkraw : raw k = (Machine.publishAnalog k t).1 := (hout k hk).trans (Function.update_self ..)
    refine ⟨raw, fun j hj => ?_, hall, ?_⟩
    · obtain ⟨hne, hj⟩ := not_or.mp (List.mem_cons.not.mp hj)
      exact (hout j hj).trans (Function.update_of_ne hne ..)
    · rw [List.append_assoc, Bool.or_assoc, ← hkraw] at hb
      exact hb

/-! ## The status correction (44_pollfsm.md R196) -/

/-- Whether an input voltage contradicts the committed status set. -/
abbrev Corrects (vin : Nat) (ss : StatusSet) : Prop := (vin = 0 ∧ ss.onLine = true) ∨ (vin ≠ 0 ∧ ss.onBattery = true)

/-- The set a correction commits. -/
def correction (vin : Nat) (ss : StatusSet) : StatusSet :=
  { onLine := decide (vin ≠ 0), onBattery := decide (vin = 0), bypass := ss.bypass }

theorem correctedStatus_eq (vin : Nat) (ss : StatusSet) :
    correctedStatus vin ss = if Corrects vin ss then some (correction vin ss) else none := by
  unfold correctedStatus Corrects correction
  by_cases hv : vin = 0 <;> simp [hv]

theorem Batch.commitStatus (h : Batch es l x s t) (f : StatusSet) : Batch (es ++ statusEvents f) l x s (commitStatus f t) := by
  have b := ((((h.emit .statusInit).emitIf f.onLine (.statusSet .onLine)).emitIf f.onBattery (.statusSet .onBattery)).emitIf
    f.bypass (.statusSet .bypass)).emit .statusCommit
  simp only [List.append_assoc] at b
  simp only [statusEvents, List.append_assoc]
  exact b

theorem Batch.correct (h : Batch es l x s t) (vin : Nat) (nx : Phase) :
    (correct vin nx t).1 = (if Corrects vin t.store.status then .warning else nx)
    ∧ Batch (es ++ if Corrects vin t.store.status then statusEvents (correction vin t.store.status) else [])
      (l ++ if Corrects vin t.store.status then [{ code := .statusCorrected, arg := vin }] else []) x s (correct vin nx t).2 := by
  have hq : ({ onLine := query .onLine t, onBattery := query .onBattery t, bypass := query .bypass t } : StatusSet)
      = t.store.status := rfl
  unfold Machine.correct
  rw [hq, correctedStatus_eq]
  by_cases hc : Corrects vin t.store.status
  · rw [if_pos hc, if_pos hc, if_pos hc, if_pos hc]
    exact ⟨rfl, (h.commitStatus _).logRec _ _⟩
  · rw [if_neg hc, if_neg hc, if_neg hc, if_neg hc, List.append_nil, List.append_nil]
    exact ⟨rfl, h⟩

end

/-! ## What the facts leave in the store -/

/-- Analog facts leave the sets and the mark. -/
theorem applyEvents_analog_frame (ks : List AnalogFact) (raw : AnalogFact → Nat) (t : Store) :
    (applyEvents (ks.map (analogEvent raw)) t).status = t.status ∧ (applyEvents (ks.map (analogEvent raw)) t).alarms = t.alarms := by
  induction ks generalizing t with
  | nil => exact ⟨rfl, rfl⟩
  | cons k ks ih => exact ih _

theorem factOf_applyEvents_analogFacts (raw : AnalogFact → Nat) (t : Store) (k : AnalogFact) :
    Store.factOf (applyEvents (analogFacts.map (analogEvent raw)) t) (.analog k) = some (.number (raw k * analogScale k)) := by
  cases k <;> simp [analogFacts, laterAnalogFacts, analogEvent, FactId.index]

theorem analogScale_eq (k : AnalogFact) : analogScale k = if k = .realpower ∨ k = .apparentPower then 10 else 1 / 100 := by
  cases k <;> simp [analogScale]

/-! ## The handler -/

/-- The events of the ANALOG handler for its raw values, with `ss` the committed status set before it. -/
def analogTickEvents (raw : AnalogFact → Nat) (ss : StatusSet) : List StoreEvent :=
  analogFacts.map (analogEvent raw)
    ++ if Corrects (raw .inputVoltage) ss then statusEvents (correction (raw .inputVoltage) ss) else []

/-- The ANALOG handler publishes its nine facts and the correction that they call for. -/
theorem analogHandler_batch {s : State} {reply : List Byte} (df : Nat) (hrx : HoldsOnly s.rx reply) (hl : 99 ≤ reply.length) :
    ∃ raw : AnalogFact → Nat, (∀ k, HexValue (charsAt reply (analogOffset s.cfg.analogLayout k) 4) (raw k))
      ∧ (analogHandler df s).1
        = (if Corrects (raw .inputVoltage) s.store.status then .warning else flagOverride s.cfg df .warning)
      ∧ Batch (analogTickEvents raw s.store.status)
        (if Corrects (raw .inputVoltage) s.store.status then [{ code := .statusCorrected, arg := raw .inputVoltage }] else [])
        (analogNonhex reply s.cfg.analogLayout analogFacts) s (analogHandler df s).2 := by
  have hany (k : AnalogFact) := ((Batch.refl s).publishAnalog hrx hl k).1
  obtain ⟨hv, hb⟩ := (Batch.refl s).publishAnalog hrx hl .inputVoltage
  obtain ⟨raw, hout, hall, hb⟩ := hb.publishAnalogs hrx hl (ks := laterAnalogFacts) (by decide)
    ((Function.forall_update_iff (fun k => (publishAnalog k s).1) _).mpr ⟨hv, fun j _ => hany j⟩)
  have hvin : raw .inputVoltage = (publishAnalog .inputVoltage s).1 := (hout _ (by decide)).trans (Function.update_self ..)
  rw [← hvin] at hb
  have hstatus : (publishAnalogs laterAnalogFacts (publishAnalog .inputVoltage s).2).store.status = s.store.status := by
    rw [hb.store]
    exact (applyEvents_analog_frame analogFacts raw s.store).1
  obtain ⟨hnext, hb⟩ := hb.correct (raw .inputVoltage) (flagOverride s.cfg df .warning)
  rw [hstatus] at hnext hb
  unfold analogHandler
  dsimp only
  rw [← hvin]
  exact ⟨raw, hall, hnext, hb⟩

/-- The store after the ANALOG handler and MARK_FRESH (10_state.md R41). -/
theorem applyEvents_analogTick {raw : AnalogFact → Nat} {t u : Store}
    (hu : u = applyEvents (analogTickEvents raw t.status ++ [.markFresh]) t) :
    (∀ k, Store.factOf u (.analog k) = some (.number (raw k * analogScale k)))
    ∧ u.status = (if Corrects (raw .inputVoltage) t.status then correction (raw .inputVoltage) t.status else t.status)
    ∧ u.alarms = t.alarms ∧ u.mark = .fresh := by
  obtain ⟨hstatus, halarms⟩ := applyEvents_analog_frame analogFacts raw t
  have hfact := factOf_applyEvents_analogFacts raw t
  subst hu
  by_cases hc : Corrects (raw .inputVoltage) t.status
  · simp [analogTickEvents, hc, hfact, halarms]
  · simp [analogTickEvents, hc, hfact, halarms, hstatus]

/-- Settles O42: nine facts, then the correction. -/
theorem analogTickPublishes : Obligations.AnalogTickPublishes := by
  intro s sends recvs reply hmode hphase hverify ha hl hrc
  obtain ⟨tx, rx, df, w, htx, hrx, hdf, hcfg, hstore, hw, hpub⟩ := tick_of_batch hmode hphase hverify ha hl hrc
  simp only [phaseHandler, reqCid, reqPayload] at htx hpub
  obtain ⟨raw, hall, hnext, hb⟩ := analogHandler_batch df hw hl
  obtain ⟨d, u, -, hexec, hstore', hu⟩ := hpub _ _ _ hb
  rw [hcfg] at hall
  rw [hstore] at hstore'
  rw [hnext, hcfg, hstore] at hu
  obtain ⟨hfacts, hstatus, halarms, hmark⟩ := applyEvents_analogTick hstore'
  refine ⟨tx, rx, df, raw, d, u, htx, hrx, hdf, hall, hexec, fun k => ?_, hstatus, halarms, hmark, ?_⟩
  · rw [← analogScale_eq]
    exact hfacts k
  · rw [hu]
    simp only [analogTickEvents, analogFacts, laterAnalogFacts, List.map_cons, List.map_nil, analogEvent, analogScale, correction,
      analogNonhex]

end Sys2Proof.Machine
end

section
/-! The WARNING tick (44_pollfsm.md R197). -/

namespace Sys2Proof.Machine

open Sys2Proof.Config

/-- Slot `i` is no placeholder and its code `c` is active. -/
def slotActive (cfg : Params) (i : Fin 26) (c : Nat) : Bool :=
  (cfg.warnName.slots.get i).isSome && ([0x01, 0x02, 0x03, 0xF0] : List Nat).contains c

/-- Slot `i` is no placeholder and its code `c` is neither active nor 0. -/
def slotAnomalous (cfg : Params) (i : Fin 26) (c : Nat) : Bool :=
  (cfg.warnName.slots.get i).isSome && !([0x00, 0x01, 0x02, 0x03, 0xF0] : List Nat).contains c

/-- The record of an anomalous code. -/
def slotRecord (i : Fin 26) (c : Nat) : LogRecord := ⟨.anomalyWarn, (256 * i.val + c : Nat)⟩

/-- The events of the given slots. -/
def warnEvents (cfg : Params) (v : Fin 26 → Nat) (is : List (Fin 26)) : List StoreEvent :=
  (is.filter fun i => slotActive cfg i (v i)).map .alarmSet

/-- The records of the given slots. -/
def warnRecords (cfg : Params) (v : Fin 26 → Nat) (is : List (Fin 26)) : List LogRecord :=
  (is.filter fun i => slotAnomalous cfg i (v i)).map fun i => slotRecord i (v i)

/-- Slot `i` is read and holds a character that is not a hex digit. -/
def slotNonhex (reply : List Byte) (cfg : Params) (i : Fin 26) : Bool :=
  (cfg.warnName.slots.get i).isSome && hasNonhex (charsAt reply (13 + cfg.warnBase + 2 * i) 2)

theorem warnEvents_cons (cfg : Params) (v : Fin 26 → Nat) (i : Fin 26) (is : List (Fin 26)) :
    warnEvents cfg v (i :: is) = (if slotActive cfg i (v i) then [.alarmSet i] else []) ++ warnEvents cfg v is := by
  unfold warnEvents
  rw [List.filter_cons]
  split <;> rfl

theorem warnRecords_cons (cfg : Params) (v : Fin 26 → Nat) (i : Fin 26) (is : List (Fin 26)) :
    warnRecords cfg v (i :: is) = (if slotAnomalous cfg i (v i) then [slotRecord i (v i)] else []) ++ warnRecords cfg v is := by
  unfold warnRecords
  rw [List.filter_cons]
  split <;> rfl

theorem contains_activeCodes (c : Nat) : ([0x01, 0x02, 0x03, 0xF0] : List Nat).contains c = warnActive c := by
  rw [Bool.eq_iff_iff]
  simp [warnActive, or_assoc]

theorem contains_knownCodes (c : Nat) : ([0x00, 0x01, 0x02, 0x03, 0xF0] : List Nat).contains c = (c == 0 || warnActive c) := by
  rw [← contains_activeCodes, List.contains_cons]

section
variable {es : List StoreEvent} {l : List LogRecord} {x : Bool} {s t : State} {reply : List Byte}

/-- A slot's code lies inside the reply (44_pollfsm.md R199). -/
theorem Batch.readSlot (h : Batch es l x s t) (hrx : HoldsOnly s.rx reply) (hl : 67 ≤ reply.length) (i : Fin 26) :
    ByteField (charsAt reply (13 + s.cfg.warnBase + 2 * i) 2) (Machine.readHexByte (warnBaseOffset s.cfg + 2 * i.val) t).1
    ∧ Batch es l (x || hasNonhex (charsAt reply (13 + s.cfg.warnBase + 2 * i) 2)) s
      (Machine.readHexByte (warnBaseOffset s.cfg + 2 * i.val) t).2 :=
  h.readHexByte hrx (off := 13 + s.cfg.warnBase + 2 * i) (by omega)

/-- One slot: a placeholder is passed over, an active code sets the alarm, another nonzero code is logged. -/
theorem Batch.warnSlot (h : Batch es l x s t) (hrx : HoldsOnly s.rx reply) (hl : 67 ≤ reply.length) {i : Fin 26} {c : Nat}
    (hc : c = (Machine.readHexByte (warnBaseOffset s.cfg + 2 * i.val) t).1) :
    Batch (es ++ if slotActive s.cfg i c then [.alarmSet i] else []) (l ++ if slotAnomalous s.cfg i c then [slotRecord i c] else [])
      (x || slotNonhex reply s.cfg i) s (warnSlot i t) := by
  obtain ⟨-, hb⟩ := h.readSlot hrx hl i
  unfold Machine.warnSlot slotActive slotAnomalous slotNonhex slotRecord
  rw [h.cfg, contains_activeCodes, contains_knownCodes, hc]
  generalize Machine.readHexByte (warnBaseOffset s.cfg + 2 * i.val) t = r at hb
  cases s.cfg.warnName.slots.get i with
  | none => simpa using h
  | some name =>
    by_cases hactive : warnActive r.1 = true
    · simpa [hactive] using hb.emit (.alarmSet i)
    · by_cases hzero : r.1 = 0
      · have hidle : warnActive 0 = false := rfl
        simpa [hzero, hidle] using hb
      · simpa [hactive, hzero] using hb.logRec .anomalyWarn (256 * i.val + r.1 : Nat)

/-- The slots in the given order: `v` takes the codes read, and keeps `v₀` elsewhere. -/
theorem Batch.warnSlots (h : Batch es l x s t) (hrx : HoldsOnly s.rx reply) (hl : 67 ≤ reply.length) {is : List (Fin 26)}
    (his : is.Nodup) {v₀ : Fin 26 → Nat}
    (hv₀ : ∀ i : Fin 26, ByteField (charsAt reply (13 + s.cfg.warnBase + 2 * i) 2) (v₀ i)) :
    ∃ v : Fin 26 → Nat, (∀ i ∉ is, v i = v₀ i)
      ∧ (∀ i : Fin 26, ByteField (charsAt reply (13 + s.cfg.warnBase + 2 * i) 2) (v i))
      ∧ Batch (es ++ warnEvents s.cfg v is) (l ++ warnRecords s.cfg v is) (x || is.any (slotNonhex reply s.cfg)) s
        (warnSlots is t) := by
  induction is generalizing es l x t v₀ with
  | nil => exact ⟨v₀, fun _ _ => rfl, hv₀, by simpa [warnEvents, warnRecords, Machine.warnSlots] using h⟩
  | cons i is ih =>
    obtain ⟨hi, his⟩ := List.nodup_cons.mp his
    obtain ⟨hread, -⟩ := h.readSlot hrx hl i
    obtain ⟨v, hout, hall, hb⟩ := ih (h.warnSlot hrx hl rfl) his
      ((Function.forall_update_iff v₀ fun (j : Fin 26) c => ByteField (charsAt reply (13 + s.cfg.warnBase + 2 * j) 2) c).mpr
        ⟨hread, fun j _ => hv₀ j⟩)
    have hvi : v i = (Machine.readHexByte (warnBaseOffset s.cfg + 2 * i.val) t).1 := (hout i hi).trans (Function.update_self ..)
    refine ⟨v, fun j hj => ?_, hall, ?_⟩
    · obtain ⟨hne, hj⟩ := not_or.mp (List.mem_cons.not.mp hj)
      exact (hout j hj).trans (Function.update_of_ne hne ..)
    · rw [List.append_assoc, List.append_assoc, Bool.or_assoc, ← hvi] at hb
      rw [warnEvents_cons, warnRecords_cons, List.any_cons]
      exact hb

/-- The alarm transaction of the WARNING handler for the codes `v`. -/
def alarmTransaction (cfg : Params) (v : Fin 26 → Nat) : List StoreEvent :=
  [StoreEvent.alarmInit] ++ warnEvents cfg v (List.finRange 26) ++ [StoreEvent.alarmCommit]

/-- The WARNING handler publishes the alarm set (44_pollfsm.md R197). -/
theorem warningHandler_batch (hrx : HoldsOnly s.rx reply) (hl : 67 ≤ reply.length) :
    ∃ v : Fin 26 → Nat, (∀ i : Fin 26, ByteField (charsAt reply (13 + s.cfg.warnBase + 2 * i) 2) (v i))
      ∧ (warningHandler s).1 = .onoff
      ∧ Batch (alarmTransaction s.cfg v) (warnRecords s.cfg v (List.finRange 26))
        ((List.finRange 26).any (slotNonhex reply s.cfg)) s (warningHandler s).2 := by
  have hany (i : Fin 26) := ((Batch.refl s).readSlot hrx hl i).1
  obtain ⟨v, -, hall, hb⟩ := ((Batch.refl s).emit .alarmInit).warnSlots hrx hl (List.nodup_finRange 26) hany
  have hb := hb.emit .alarmCommit
  simp only [List.nil_append, Bool.false_or] at hb
  unfold warningHandler
  exact ⟨v, hall, rfl, hb⟩

end

/-- The store after the WARNING handler and MARK_FRESH (10_state.md R41). -/
theorem applyEvents_warning {cfg : Params} {v : Fin 26 → Nat} {t u : Store}
    (hu : u = applyEvents (alarmTransaction cfg v ++ [.markFresh]) t) :
    (∀ i, u.alarms.get i = true ↔ slotActive cfg i (v i) = true) ∧ u.status = t.status ∧ u.facts = t.facts ∧ u.mark = .fresh := by
  subst hu
  obtain ⟨hstatus, -, -, hfacts, -⟩ := applyEvents_alarmSet_frame
    ((List.finRange 26).filter fun i => slotActive cfg i (v i)) (Store.apply .alarmInit t)
  have hwork := applyEvents_alarmSet_work ((List.finRange 26).filter fun i => slotActive cfg i (v i)) (Store.apply .alarmInit t)
  have hempty (i : Fin 26) : (Vector.replicate 26 false).get i = false := by
    change (Vector.replicate 26 false)[i.val] = false
    simp
  simp only [apply_alarmInit_alarmsWork, hempty] at hwork
  simp [alarmTransaction, warnEvents, hwork, hstatus, hfacts]

/-- Settles O43: every slot in order. -/
theorem warningTickPublishes : Obligations.WarningTickPublishes := by
  intro s sends recvs reply hmode hphase hverify ha hl hrc
  obtain ⟨tx, rx, df, w, htx, hrx, hdf, hcfg, -, hw, hpub⟩ := tick_of_batch hmode hphase hverify ha hl hrc
  simp only [phaseHandler, reqCid, reqPayload] at htx hpub
  obtain ⟨v, hall, hnext, hb⟩ := warningHandler_batch hw hl
  obtain ⟨d, u, -, hexec, hstore', hu⟩ := hpub _ _ _ hb
  rw [hcfg] at hall hstore'
  rw [hnext, hcfg] at hu
  obtain ⟨halarms, hstatus, hfacts, hmark⟩ := applyEvents_warning hstore'
  refine ⟨tx, rx, df, v, d, u, htx, hrx, hdf, hall, hexec, fun i => ?_, hstatus, hfacts, hmark, hu⟩
  rw [halarms, slotActive]
  simp

end Sys2Proof.Machine
end

section
/-! The host's register map and the accesses of registers (O2, O50, O51, O52, O56, O57). An access is admitted where `hostTarget` finds a register or a window word; each kind of access then has one equation. -/

namespace Sys2Proof.Machine

/-! ## The register map (20_memory.md R52) -/

/-- The address a buffer's window begins at (20_memory.md R52). -/
def Buf.windowBase : Buf → Nat
  | .tx => 0x100
  | .rx => 0x200
  | .pl => 0x300
  | .str => 0x400

/-- The number of words in a buffer's window (20_memory.md R52): PLBUF's holds two bytes more than the buffer. -/
def Buf.windowWords : Buf → Nat
  | .tx => 32
  | .rx => 32
  | .pl => 28
  | .str => 32

/-- The address of a register or of a window's word (20_memory.md R52). -/
def HostReg.address : HostReg → Nat
  | .cmd => 0x000
  | .status => 0x004
  | .outcome => 0x008
  | .resultLo => 0x00C
  | .resultHi => 0x010
  | .rc => 0x014
  | .phase => 0x018
  | .adr => 0x01C
  | .ver => 0x020
  | .cid => 0x024
  | .pllen => 0x028
  | .txlen => 0x02C
  | .rxlen => 0x030
  | .strlen => 0x034
  | .dataflag => 0x038
  | .attempts => 0x03C
  | .window b i => b.windowBase + i

/-- What stands at an address of a window. -/
theorem windowAt_address {n : Nat} {r : HostReg} (h : windowAt n = some r) : n = r.address := by
  unfold windowAt at h
  split_ifs at h with htx hrx hpl hstr
  all_goals
    cases h
    simp only [HostReg.address, Buf.windowBase]
    omega

/-- A window's bytes stand in order from its base on. -/
theorem windowAt_window {b : Buf} {i : Nat} (hi : i < 4 * b.windowWords) :
    windowAt (b.windowBase + i) = some (.window b i) := by
  cases b with
  | tx =>
    change i < 4 * 32 at hi
    change windowAt (0x100 + i) = _
    rw [windowAt, if_pos (by omega), Nat.add_sub_cancel_left]
  | rx =>
    change i < 4 * 32 at hi
    change windowAt (0x200 + i) = _
    rw [windowAt, if_neg (by omega), if_pos (by omega), Nat.add_sub_cancel_left]
  | pl =>
    change i < 4 * 28 at hi
    change windowAt (0x300 + i) = _
    rw [windowAt, if_neg (by omega), if_neg (by omega), if_pos (by omega), Nat.add_sub_cancel_left]
  | str =>
    change i < 4 * 32 at hi
    change windowAt (0x400 + i) = _
    rw [windowAt, if_neg (by omega), if_neg (by omega), if_neg (by omega), if_pos (by omega), Nat.add_sub_cancel_left]

/-- No register or window word stands at two addresses. -/
theorem registerAt_address {n : Nat} {r : HostReg} (h : registerAt n = some r) : n = r.address := by
  unfold registerAt at h
  split at h
  case h_17 => exact windowAt_address h
  all_goals
    cases h
    rfl

theorem hostTarget_address {w : Nat} {a : BitVec 12} {r : HostReg} (h : hostTarget w a = some r) :
    a.toNat = r.address := by
  unfold hostTarget at h
  split at h
  · exact registerAt_address h
  · cases h

/-- Above the registers the map holds only the windows. -/
theorem registerAt_window {n : Nat} (h : 0x03C < n) : registerAt n = windowAt n := by
  unfold registerAt
  split
  case h_17 => rfl
  all_goals omega

theorem windowAt_isSome_iff {n : Nat} (h : 0x03C < n) : (windowAt n).isSome = true ↔ Mapped n := by
  unfold windowAt Mapped
  split_ifs <;> simp <;> omega

/-- The sixteen registers stand at the multiples of 4 up to 0x03C. -/
theorem registerAt_low : ∀ k, k < 16 → (registerAt (4 * k)).isSome = true := by decide

theorem registerAt_isSome_iff {n : Nat} (h4 : n % 4 = 0) : (registerAt n).isSome = true ↔ Mapped n := by
  by_cases hn : 0x03C < n
  · rw [registerAt_window hn, windowAt_isSome_iff hn]
  · have hm : Mapped n := .inl (by omega)
    obtain ⟨k, rfl⟩ := Nat.dvd_of_mod_eq_zero h4
    exact iff_of_true (registerAt_low k (by omega)) hm

/-- The accesses that R51 lets through are exactly those that reach something. -/
theorem hostTarget_isSome_iff (w : Nat) (a : BitVec 12) :
    (hostTarget w a).isSome = true ↔ w = 32 ∧ a.toNat % 4 = 0 ∧ Mapped a.toNat := by
  unfold hostTarget
  split
  · rename_i h
    simp [registerAt_isSome_iff h.2, h]
  · rename_i h
    simp only [Option.isSome_none, Bool.false_eq_true, false_iff]
    exact fun ⟨hw, ha, _⟩ => h ⟨hw, ha⟩

theorem hostTarget_of_mapped {a : BitVec 12} (h4 : a.toNat % 4 = 0) (hm : Mapped a.toNat) :
    ∃ r, hostTarget 32 a = some r :=
  Option.isSome_iff_exists.mp ((hostTarget_isSome_iff 32 a).mpr ⟨rfl, h4, hm⟩)

/-- An aligned access inside a window reaches the window's word there. -/
theorem hostTarget_window_at {a : BitVec 12} {b : Buf} {i : Nat} (h4 : a.toNat % 4 = 0)
    (ha : a.toNat = b.windowBase + i) (hi : i < 4 * b.windowWords) : hostTarget 32 a = some (.window b i) := by
  have hbase : 0x03C < b.windowBase := by cases b <;> decide
  rw [hostTarget, if_pos ⟨rfl, h4⟩, registerAt_window (by omega), ha, windowAt_window hi]

theorem hostTarget_not_admitted {w : Nat} {a : BitVec 12} (h : ¬(w = 32 ∧ a.toNat % 4 = 0 ∧ Mapped a.toNat)) :
    hostTarget w a = none := by
  simpa using (hostTarget_isSome_iff w a).not.mpr h

/-! ## One equation for each kind of access (20_memory.md R51, R57, R61); that of an admitted write is `hostWrite_admitted` -/

/-- A host read of a mapped register gives what `readReg` gives, for STATUS at any time and for the others while BUSY = 0. -/
theorem hostRead_admitted {w : Nat} {a : BitVec 12} {r : HostReg} {s : State} (h : hostTarget w a = some r)
    (hb : s.busy = false ∨ a = statusAddr) :
    hostRead w a s = { (readReg r s).2 with hostData := (readReg r s).1 } := by
  have hb : ¬(s.busy = true ∧ a ≠ statusAddr) := by
    obtain h | h := hb <;> simp [h]
  simp [hostRead, h, hb]

theorem hostRead_busy {w : Nat} {a : BitVec 12} {r : HostReg} {s : State} (h : hostTarget w a = some r)
    (hb : s.busy = true) (ha : a ≠ statusAddr) :
    hostRead w a s = { s with hostData := (draw s).1.setWidth 32, draws := s.draws + 1 } := by
  simp [hostRead, h, hb, ha, draw]

theorem hostWrite_busy {w : Nat} {a : BitVec 12} {r : HostReg} (v : Word) {s : State} (h : hostTarget w a = some r)
    (hb : s.busy = true) (ha : a ≠ statusAddr) : hostWrite w a v s = { s with overrun := true } := by
  simp [hostWrite, h, hb, ha]

theorem hostRead_not_admitted {w : Nat} {a : BitVec 12} {s : State} (h : hostTarget w a = none) (hb : s.busy = false) :
    hostRead w a s = { s with buserr := true, hostData := 0 } := by
  simp [hostRead, h, hb]

theorem hostWrite_not_admitted {w : Nat} {a : BitVec 12} (v : Word) {s : State} (h : hostTarget w a = none)
    (hb : s.busy = false) : hostWrite w a v s = { s with buserr := true } := by
  simp [hostWrite, h, hb]

/-- Of the admitted writes only one of STATUS can change BUSERR. -/
theorem writeReg_buserr {r : HostReg} (h : r ≠ .status) (v : Word) (s : State) : (writeReg r v s).buserr = s.buserr := by
  cases r with
  | status => exact absurd rfl h
  | adr =>
    unfold writeReg
    dsimp only
    split <;> rfl
  | window b i => cases b <;> rfl
  | _ => rfl

/-- Settles O52: an access that reaches nothing is refused; one that reaches something is `readReg` or `writeReg`, which leave BUSERR. -/
theorem badHostAccessesSetBuserr : Obligations.BadHostAccessesSetBuserr := by
  intro w a v s hb
  refine ⟨fun hbad => ?_, fun hw h4 hm => ?_⟩
  · have hnone := hostTarget_not_admitted hbad
    exact ⟨hostRead_not_admitted hnone hb, hostWrite_not_admitted v hnone hb⟩
  · subst hw
    obtain ⟨r, hr⟩ := hostTarget_of_mapped h4 hm
    refine ⟨?_, fun ha => ?_⟩
    · obtain ⟨d, hd⟩ := readReg_state r s
      rw [hostRead_admitted hr (.inl hb), hd]
    · have hstatus : r ≠ .status := by
        rintro rfl
        exact ha (BitVec.eq_of_toNat_eq (hostTarget_address hr))
      rw [hostWrite_admitted v hr (.inl hb), writeReg_buserr hstatus]

/-- Settles O50: CMD's address is admitted, and is not STATUS's. -/
theorem cmdWriteIssuesOrOverruns : Obligations.CmdWriteIssuesOrOverruns := by
  intro w s
  have hcmd : hostTarget 32 0x000 = some .cmd := rfl
  exact ⟨fun hb => hostWrite_admitted w hcmd (.inl hb), fun hb => hostWrite_busy w hcmd hb (by decide)⟩

/-- Settles O51: an access that is bad by R51 reaches no register, so `writeReg` is not its effect. -/
theorem hostAccessesWhileBusy : Obligations.HostAccessesWhileBusy := by
  refine ⟨fun a v s hb h4 hm => ?_, fun w a v s hb hbad => ⟨?_, hostRead_state w a s⟩⟩
  · obtain ⟨r, hr⟩ := hostTarget_of_mapped h4 hm
    exact ⟨hostWrite_busy v hr hb, fun ha => ⟨_, _, hostRead_busy hr hb ha⟩,
      hostRead_admitted (r := .status) rfl (.inr rfl)⟩
  · obtain hflags | ⟨r, hr, -, -⟩ := hostWrite_cases w a v s
    · exact hflags
    · rw [hostTarget_not_admitted hbad] at hr
      cases hr

/-! ## The registers, read and write -/

/-- What stands at an address marked R alone ignores writes (20_memory.md R52). -/
theorem hostTarget_readOnly {a : BitVec 12} (h4 : a.toNat % 4 = 0)
    (ha : a ∈ ([0x008, 0x00C, 0x010, 0x014, 0x018, 0x020, 0x02C, 0x034, 0x038, 0x03C] : List (BitVec 12))
      ∨ (0x100 ≤ a.toNat ∧ a.toNat ≤ 0x17F) ∨ (0x400 ≤ a.toNat ∧ a.toNat ≤ 0x47F)) :
    ∃ r, hostTarget 32 a = some r ∧ ∀ v s, writeReg r v s = s := by
  obtain hreg | htx | hstr := ha
  · simp only [List.mem_cons, List.not_mem_nil, or_false] at hreg
    obtain rfl | rfl | rfl | rfl | rfl | rfl | rfl | rfl | rfl | rfl := hreg
    all_goals exact ⟨_, rfl, fun _ _ => rfl⟩
  · obtain ⟨i, hi⟩ := Nat.exists_eq_add_of_le htx.1
    exact ⟨.window .tx i, hostTarget_window_at h4 hi (show i < 4 * 32 by omega), fun _ _ => rfl⟩
  · obtain ⟨i, hi⟩ := Nat.exists_eq_add_of_le hstr.1
    exact ⟨.window .str i, hostTarget_window_at h4 hi (show i < 4 * 32 by omega), fun _ _ => rfl⟩

/-- Settles O56: an admitted write is `writeReg`, which here is ignored. -/
theorem readOnlyRegistersIgnoreWrites : Obligations.ReadOnlyRegistersIgnoreWrites := by
  intro a v s hb h4 ha
  obtain ⟨r, hr, hignored⟩ := hostTarget_readOnly h4 ha
  rw [hostWrite_admitted v hr (.inl hb), hignored]

theorem outcome_code_eq (o : OutcomeCode) : o.code = outcomeNumber o := by cases o <;> rfl

theorem phase_code_eq (p : Phase) : p.code = phaseNumber p := by cases p <;> rfl

/-- Settles O57: each address is its register's; only the two halves of RESULT and the two numbers are written another way. -/
theorem hostReadsRegisters : Obligations.HostReadsRegisters := by
  intro s hb
  have hread {a : BitVec 12} (r : HostReg) (ha : hostTarget 32 a = some r) := hostRead_admitted ha (.inl hb)
  have hlo : s.result.extractLsb' 0 32 = s.result.setWidth 32 := BitVec.eq_of_toNat_eq (by simp)
  have hhi : s.result.extractLsb' 32 32 = (s.result >>> 32).setWidth 32 := rfl
  rw [← outcome_code_eq, ← phase_code_eq, ← hlo, ← hhi]
  exact ⟨hread .cmd rfl, hread .status rfl, hread .outcome rfl, hread .resultLo rfl, hread .resultHi rfl, hread .rc rfl,
    hread .phase rfl, hread .adr rfl, hread .ver rfl, hread .cid rfl, hread .pllen rfl, hread .txlen rfl,
    hread .rxlen rfl, hread .strlen rfl, hread .dataflag rfl, hread .attempts rfl⟩

/-! ## The block's turn -/

theorem step_blocksTurn {s : State} (h : BlocksTurn s) : step s = blockStep { s with turns := s.turns.tail } := by
  obtain ht | ⟨rest, ht⟩ := h
  · have hs : ({ s with turns := s.turns.tail } : State) = s := by
      cases s
      cases ht
      rfl
    rw [hs, step, nextTurn, ht]
    rfl
  · rw [step, nextTurn, ht]
    rfl

/-- Settles O2: the block's turn is `blockStep`, which runs the decoded command or, while BUSY = 0, nothing. -/
theorem stepRunsTheDecodedCommand : Obligations.StepRunsTheDecodedCommand := by
  intro s h
  have hstep := step_blocksTurn h
  refine ⟨hstep, fun i hb hi => ?_, fun hb => ?_⟩
  · simp [hstep, blockStep, runPending, hb, hi]
  · simp [hstep, blockStep, hb]

end Sys2Proof.Machine
end

section
/-! The buffer windows (O58, O59): a word of a window is four bytes, little-endian (20_memory.md R53). -/

namespace Sys2Proof.Machine

/-! ## Bytes of a word -/

/-- The low byte of a word put together from bytes is the last one. -/
theorem extractLsb'_append_low {n : Nat} (x : BitVec n) (y : Byte) : (x ++ y).extractLsb' 0 8 = y := by
  rw [BitVec.extractLsb'_append_eq_of_add_le (by decide), BitVec.extractLsb'_eq_self]

/-- The higher bytes are those of the bytes before it. -/
theorem extractLsb'_append_high {n : Nat} (x : BitVec n) (y : Byte) (k : Nat) :
    (x ++ y).extractLsb' (8 * (k + 1)) 8 = x.extractLsb' (8 * k) 8 :=
  BitVec.extractLsb'_append_eq_of_le (by omega)

/-- Byte `k` of a word stands at index `k` of its bytes. -/
theorem wordBytes_getElem? (v : Word) {k : Nat} (h : k < 4) : (wordBytes v)[k]? = some (v.extractLsb' (8 * k) 8) := by
  match k, h with
  | 0, _ => rfl
  | 1, _ => rfl
  | 2, _ => rfl
  | 3, _ => rfl

/-! ## Addresses of windows (20_memory.md R52) -/

/-- The word `j` of a window stands at four times `j` above the window's base. -/
theorem hostTarget_word {b : Buf} {j : Nat} (hj : j < b.windowWords) :
    hostTarget 32 (BitVec.ofNat 12 (b.windowBase + 4 * j)) = some (.window b (4 * j)) := by
  have hbound : b.windowBase % 4 = 0 ∧ 0x100 ≤ b.windowBase ∧ b.windowBase ≤ 0x400 ∧ b.windowWords ≤ 32 := by
    cases b <;> decide
  have ha : (BitVec.ofNat 12 (b.windowBase + 4 * j)).toNat = b.windowBase + 4 * j := by
    rw [BitVec.toNat_ofNat]
    omega
  exact hostTarget_window_at (by omega) ha (by omega)

/-! ## Word writes -/

/-- Settles O58: RXBUF takes the word's four bytes, PLBUF those that lie inside it. -/
theorem hostWordWritesFourBytes : Obligations.HostWordWritesFourBytes := by
  intro j v s hb
  refine ⟨fun hj => ?_, fun hj => ?_⟩
  · refine ⟨Memory.writeAll s.rx (4 * j) (wordBytes v),
      hostWrite_admitted v (hostTarget_word (b := .rx) hj) (.inl hb), fun k hk => ?_, fun i hi => ?_⟩
    · rw [Memory.read_writeAll_inside _ _ _ hk, wordBytes_getElem? v hk]
    · exact Memory.read_writeAll_outside _ _ _ hi
  · refine ⟨Memory.writeAll s.pl (4 * j) ((wordBytes v).take (110 - 4 * j)),
      hostWrite_admitted v (hostTarget_word (b := .pl) hj) (.inl hb), fun k hk hin => ?_, fun i hi => ?_⟩
    · have hlen : k < ((wordBytes v).take (110 - 4 * j)).length := by
        rw [List.length_take]
        exact lt_min (by omega) hk
      rw [Memory.read_writeAll_inside _ _ _ hlen, List.getElem?_take_of_lt (by omega), wordBytes_getElem? v hk]
    · refine Memory.read_writeAll_outside _ _ _ ?_
      have h4 : ((wordBytes v).take (110 - 4 * j)).length ≤ 4 := List.length_take_le' _ _
      have hend : ((wordBytes v).take (110 - 4 * j)).length ≤ 110 - 4 * j := List.length_take_le _ _
      have hword : (wordBytes v).length = 4 := rfl
      omega

/-! ## Word reads -/

/-- Byte `k` of the word read is the window's byte `k` from there, read after some number of free values. -/
theorem readWindow_byte (b : Buf) (i : Nat) (s : State) {k : Nat} (hk : k < 4) :
    ∃ d, (readWindow b i s).1.extractLsb' (8 * k) 8 = (windowByte b (i + k) { s with draws := d }).1 := by
  obtain ⟨d0, h0⟩ := windowByte_state b i s
  obtain ⟨d1, h1⟩ := windowByte_state b (i + 1) { s with draws := d0 }
  obtain ⟨d2, h2⟩ := windowByte_state b (i + 2) { s with draws := d1 }
  simp only [readWindow, h0, h1, h2]
  match k, hk with
  | 0, _ => exact ⟨s.draws, extractLsb'_append_low _ _⟩
  | 1, _ => exact ⟨d0, by rw [extractLsb'_append_high, extractLsb'_append_low]⟩
  | 2, _ => exact ⟨d1, by rw [extractLsb'_append_high, extractLsb'_append_high, extractLsb'_append_low]⟩
  | 3, _ =>
    exact ⟨d2, by rw [extractLsb'_append_high, extractLsb'_append_high, extractLsb'_append_high, BitVec.extractLsb'_eq_self]⟩

/-- A word of four written or padding bytes is read without a free value. -/
theorem readWindow_of_bytes {b : Buf} {i : Nat} {s : State} {b0 b1 b2 b3 : Byte} (h0 : windowByte b i s = (b0, s))
    (h1 : windowByte b (i + 1) s = (b1, s)) (h2 : windowByte b (i + 2) s = (b2, s))
    (h3 : windowByte b (i + 3) s = (b3, s)) : readWindow b i s = (b3 ++ b2 ++ b1 ++ b0, s) := by
  simp only [readWindow, h0, h1, h2, h3]

/-- A byte of a window lies past its buffer only where it is PLBUF's 110 or 111 (10_state.md R38). -/
theorem size_le_window_byte_iff {b : Buf} {j k : Nat} (hj : j < b.windowWords) (hk : k < 4) :
    b.size ≤ 4 * j + k ↔ b = .pl ∧ 110 ≤ 4 * j + k := by
  cases b with
  | pl => simp [Buf.size]
  | _ =>
    simp only [Buf.windowWords] at hj
    simp only [Buf.size, reduceCtorEq, false_and, iff_false]
    omega

/-- PLBUF's bytes 110 and 111 are the upper half of its window's last word. -/
theorem padding_byte {b : Buf} {j k : Nat} (hj : j < b.windowWords) (hk : k < 4) (h : b = .pl ∧ 110 ≤ 4 * j + k) :
    j = 27 ∧ 2 ≤ k := by
  obtain ⟨rfl, h⟩ := h
  simp only [Buf.windowWords] at hj
  omega

/-- What a host read of a window's word gives, whatever was written. -/
theorem hostRead_word {s : State} {b : Buf} {j : Nat} (hj : j < b.windowWords) (hb : s.busy = false) :
    ∃ (x : Word) (d : Nat), hostRead 32 (BitVec.ofNat 12 (b.windowBase + 4 * j)) s = { s with hostData := x, draws := d }
      ∧ ∀ k, k < 4 →
        (b = .pl ∧ 110 ≤ 4 * j + k → x.extractLsb' (8 * k) 8 = 0)
        ∧ (¬(b = .pl ∧ 110 ≤ 4 * j + k) → ∀ v, Memory.read (s.buf b) (4 * j + k) = some v → x.extractLsb' (8 * k) 8 = v) := by
  obtain ⟨d, hd⟩ := readWindow_state b (4 * j) s
  refine ⟨(readWindow b (4 * j) s).1, d, ?_, fun k hk => ?_⟩
  · rw [hostRead_admitted (hostTarget_word hj) (.inl hb), readReg, hd]
  · obtain ⟨e, he⟩ := readWindow_byte b (4 * j) s hk
    rw [he, ← size_le_window_byte_iff hj hk]
    refine ⟨fun hpast => ?_, fun hin v hv => ?_⟩
    · rw [windowByte_past _ hpast]
    · rw [windowByte_written (Nat.lt_of_not_le hin) (by rwa [buf_draws])]

/-- A host read of a window's word whose bytes were all written, or are PLBUF's 110 and 111, gives them and draws nothing. -/
theorem hostRead_written_word {s : State} {b : Buf} {j : Nat} (hj : j < b.windowWords) (hb : s.busy = false)
    {b0 b1 b2 b3 : Byte} (h0 : Memory.read (s.buf b) (4 * j) = some b0) (h1 : Memory.read (s.buf b) (4 * j + 1) = some b1)
    (h23 : (b = .pl ∧ j = 27 ∧ b2 = 0 ∧ b3 = 0)
      ∨ (¬(b = .pl ∧ j = 27) ∧ Memory.read (s.buf b) (4 * j + 2) = some b2 ∧ Memory.read (s.buf b) (4 * j + 3) = some b3)) :
    hostRead 32 (BitVec.ofNat 12 (b.windowBase + 4 * j)) s = { s with hostData := b3 ++ b2 ++ b1 ++ b0 } := by
  have hwritten {k : Nat} {v : Byte} (hk : k < 4) (hin : ¬(b = .pl ∧ 110 ≤ 4 * j + k))
      (hv : Memory.read (s.buf b) (4 * j + k) = some v) : windowByte b (4 * j + k) s = (v, s) :=
    windowByte_written (Nat.lt_of_not_le ((size_le_window_byte_iff hj hk).not.mpr hin)) hv
  have h0 : windowByte b (4 * j) s = (b0, s) :=
    hwritten (k := 0) (by decide) (fun h => absurd (padding_byte hj (by decide) h).2 (by decide)) h0
  have h1 := hwritten (k := 1) (by decide) (fun h => absurd (padding_byte hj (by decide) h).2 (by decide)) h1
  have h23 : windowByte b (4 * j + 2) s = (b2, s) ∧ windowByte b (4 * j + 3) s = (b3, s) := by
    obtain ⟨rfl, rfl, rfl, rfl⟩ | ⟨hlast, h2, h3⟩ := h23
    · exact ⟨windowByte_past s (by decide), windowByte_past s (by decide)⟩
    · have hin {k : Nat} (hk : k < 4) : ¬(b = .pl ∧ 110 ≤ 4 * j + k) := fun h => hlast ⟨h.1, (padding_byte hj hk h).1⟩
      exact ⟨hwritten (by decide) (hin (by decide)) h2, hwritten (by decide) (hin (by decide)) h3⟩
  rw [hostRead_admitted (hostTarget_word hj) (.inl hb), readReg, readWindow_of_bytes h0 h1 h23.1 h23.2]

/-- Settles O59: the four windows are those of `windowBase` and `windowWords`. -/
theorem hostWordReadsFourBytes : Obligations.HostWordReadsFourBytes := by
  intro s b base j hb hw
  obtain ⟨rfl, hj⟩ : base = b.windowBase ∧ j < b.windowWords := by
    obtain ⟨rfl, rfl, hj⟩ | ⟨rfl, rfl, hj⟩ | ⟨rfl, rfl, hj⟩ | ⟨rfl, rfl, hj⟩ := hw
    all_goals exact ⟨rfl, hj⟩
  exact ⟨hostRead_word hj hb, fun _ _ _ _ h0 h1 h23 => hostRead_written_word hj hb h0 h1 h23⟩

end Sys2Proof.Machine
end

section
/-! Decoding and encoding (O6, O7, O8). A word decodes if its opcode has a row in the table of 30_encoding.md R73 and the bits that the row's format marks 0 are 0. -/

namespace Sys2Proof.Machine

/-! ## The bits of a word -/

theorem slice_opcode (w : Word) : slice w 7 0 = w.toNat % 256 := by simp [slice]

/-- Bits 31:z of a word are 0 just if the word is below 2^z. -/
theorem slice_top_eq_zero_iff (w : Word) (z : Nat) : slice w 31 z = 0 ↔ w.toNat < 2 ^ z := by
  have hw : w.toNat < 2 ^ (31 + 1) := w.isLt
  have hfits : w.toNat / 2 ^ z < 2 ^ (31 - z + 1) := by
    rw [Nat.div_lt_iff_lt_mul (Nat.two_pow_pos z), ← Nat.pow_add]
    exact hw.trans_le (Nat.pow_le_pow_right (by decide) (by omega))
  rw [slice, Nat.mod_eq_of_lt hfits, Nat.div_eq_zero_iff_lt (Nat.two_pow_pos z)]

/-- A word is below 2^z just if no bit from `z` on is 1. -/
theorem toNat_lt_two_pow_iff (w : Word) (z : Nat) :
    w.toNat < 2 ^ z ↔ ∀ b, z ≤ b → b < 32 → w.getLsbD b = false := by
  refine ⟨fun h b hb _ => Nat.testBit_lt_two_pow (h.trans_le (Nat.pow_le_pow_right (by decide) hb)), fun h => ?_⟩
  refine Nat.lt_pow_two_of_testBit w.toNat fun b hb => ?_
  by_cases h32 : b < 32
  · exact h b hb h32
  · exact BitVec.getLsbD_of_ge w b (by omega)

/-! ## The decoder, by the opcode's row -/

/-- The row of 30_encoding.md R73: the command of an opcode with the fields of the word `w`. -/
def commandOf (op : Nat) (w : Word) : Option Instr :=
  match op with
  | 0x01 => some .build
  | 0x02 => some (.lchk (slice w 19 8))
  | 0x03 => some (.pchk (bufSelOf (slice w 24 24)) (slice w 15 8) (slice w 23 16))
  | 0x04 => some (.validate (slice w 15 8))
  | 0x05 => some .chklen
  | 0x06 => some .chksum
  | 0x07 => some (.hex2val (slice w 15 8) (slice w 23 16))
  | 0x08 => some (.hex2str (slice w 15 8) (slice w 23 16) (slice w 31 24))
  | 0x09 => some .exchange
  | 0x0A => some (.execute (slice w 15 8))
  | 0x0B => some .tick
  | 0x0C => some .probe
  | _ => none

/-- Only the opcodes 0x01 to 0x0C have a row. -/
theorem commandOf_isSome_iff (op : Nat) (w : Word) : (commandOf op w).isSome = true ↔ 1 ≤ op ∧ op ≤ 0x0C := by
  refine ⟨fun h => ?_, fun ⟨h1, h12⟩ => by interval_cases op <;> rfl⟩
  unfold commandOf at h
  split at h
  case h_13 => cases h
  all_goals decide

theorem onlyIfZeroFrom_eq_ok_iff {w : Word} {lo : Nat} {i j : Instr} :
    onlyIfZeroFrom w lo j = .ok i ↔ some j = some i ∧ w.toNat < 2 ^ lo := by
  rw [← slice_top_eq_zero_iff]
  by_cases hz : slice w 31 lo = 0
  · simp [onlyIfZeroFrom, hz]
  · simp [onlyIfZeroFrom, hz]

/-- A word decodes to the command of its opcode's row, if its bits from `firstZeroBit` on are 0. -/
theorem decode_eq_ok_iff (w : Word) (i : Instr) :
    decode w = .ok i ↔ commandOf (slice w 7 0) w = some i ∧ w.toNat < 2 ^ firstZeroBit (slice w 7 0) := by
  unfold decode commandOf
  split
  case h_8 hop =>
    -- HEX2STR's format marks no bit 0, so the decoder checks none
    have hw : w.toNat < 2 ^ firstZeroBit 0x08 := w.isLt
    simp [hop, hw]
  case h_13 => simp
  all_goals rename_i hop; rw [hop]; exact onlyIfZeroFrom_eq_ok_iff

/-- Which words decode, bit by bit (30_encoding.md R74). -/
theorem decodes_iff (w : Word) : (∃ i, decode w = .ok i) ↔
    1 ≤ w.toNat % 256 ∧ w.toNat % 256 ≤ 0x0C
      ∧ ∀ b, firstZeroBit (w.toNat % 256) ≤ b → b < 32 → w.getLsbD b = false := by
  simp only [decode_eq_ok_iff, slice_opcode, exists_and_right, ← Option.isSome_iff_exists, commandOf_isSome_iff,
    toNat_lt_two_pow_iff, and_assoc]

/-! ## The encoder -/

/-- The operands of a well-formed command lie below the bits that its format marks 0 (30_encoding.md R72). -/
theorem operandBits_lt {i : Instr} (h : i.wf = true) : operandBits i < 2 ^ (firstZeroBit (opcode i) - 8) := by
  cases i with
  | lchk l12 => exact of_decide_eq_true h
  | validate minlen => exact of_decide_eq_true h
  | execute idx => exact of_decide_eq_true h
  | pchk sel off len =>
    obtain ⟨hoff, hlen⟩ : off < 256 ∧ len < 256 := by simpa [Instr.wf] using h
    change off + len * 2 ^ 8 + bufSelBit sel * 2 ^ 16 < 2 ^ 17
    have hsel : bufSelBit sel < 2 := by cases sel <;> decide
    omega
  | hex2val off len =>
    obtain ⟨hoff, hlen⟩ : off < 256 ∧ len < 256 := by simpa [Instr.wf] using h
    change off + len * 2 ^ 8 < 2 ^ 16
    omega
  | hex2str off len cap =>
    obtain ⟨⟨hoff, hlen⟩, hcap⟩ : (off < 256 ∧ len < 256) ∧ cap < 256 := by simpa [Instr.wf] using h
    change off + len * 2 ^ 8 + cap * 2 ^ 16 < 2 ^ 24
    omega
  | build | chklen | chksum | exchange | tick | probe => decide

theorem opcode_lt (i : Instr) : opcode i < 256 := by cases i <;> simp [opcode]

/-- No format marks a bit of the opcode 0. -/
theorem firstZeroBit_bounds (op : Nat) : 8 ≤ firstZeroBit op ∧ firstZeroBit op ≤ 32 := by
  unfold firstZeroBit
  split_ifs <;> decide

/-- The parts of a well-formed command's word fit into its 32 bits. -/
theorem encode_toNat {i : Instr} (h : i.wf = true) : (encode i).toNat = opcode i + operandBits i * 2 ^ 8 := by
  have hop := opcode_lt i
  have hbits : operandBits i < 2 ^ 24 :=
    (operandBits_lt h).trans_le (Nat.pow_le_pow_right (by decide) (Nat.sub_le_sub_right (firstZeroBit_bounds _).2 8))
  rw [encode, BitVec.toNat_ofNat]
  omega

/-- A word made of an opcode and operand bits is below 2^z, for z from 8 on, just if the operand bits are below 2^(z - 8). -/
theorem parts_lt_two_pow_iff {op bits z : Nat} (hop : op < 256) (hz : 8 ≤ z) :
    op + bits * 2 ^ 8 < 2 ^ z ↔ bits < 2 ^ (z - 8) := by
  obtain ⟨k, rfl⟩ := Nat.exists_eq_add_of_le hz
  rw [Nat.add_sub_cancel_left, Nat.pow_add]
  omega

/-- A field of a command's word, from bit 8 + k on, is that field of its operand bits. -/
theorem slice_encode {i : Instr} (h : i.wf = true) (hi k : Nat) :
    slice (encode i) hi (8 + k) = operandBits i / 2 ^ k % 2 ^ (hi - (8 + k) + 1) := by
  have hop := opcode_lt i
  have hshift : (opcode i + operandBits i * 2 ^ 8) / 2 ^ 8 = operandBits i := by omega
  rw [slice, encode_toNat h, Nat.pow_add, ← Nat.div_div_eq_div_mul, hshift]

theorem slice_encode_opcode {i : Instr} (h : i.wf = true) : slice (encode i) 7 0 = opcode i := by
  have hop := opcode_lt i
  rw [slice_opcode, encode_toNat h]
  omega

@[simp] theorem bufSelOf_bufSelBit (sel : BufSel) : bufSelOf (bufSelBit sel) = sel := by cases sel <;> rfl

theorem bufSelBit_bufSelOf {s : Nat} (h : s < 2) : bufSelBit (bufSelOf s) = s := by interval_cases s <;> rfl

/-- The row of a command's own opcode reads the command back from its word. -/
theorem commandOf_encode {i : Instr} (h : i.wf = true) : commandOf (opcode i) (encode i) = some i := by
  have f8 : slice (encode i) 15 8 = operandBits i / 2 ^ 0 % 2 ^ 8 := slice_encode h 15 0
  have f16 : slice (encode i) 23 16 = operandBits i / 2 ^ 8 % 2 ^ 8 := slice_encode h 23 8
  have f24 : slice (encode i) 31 24 = operandBits i / 2 ^ 16 % 2 ^ 8 := slice_encode h 31 16
  cases i with
  | build | chklen | chksum | exchange | tick | probe => rfl
  | lchk l12 =>
    have hl : slice (encode (.lchk l12)) 19 8 = l12 / 2 ^ 0 % 2 ^ 12 := slice_encode h 19 0
    have hl12 : l12 < 4096 := of_decide_eq_true h
    simp only [commandOf, opcode, hl, Option.some.injEq, Instr.lchk.injEq]
    omega
  | validate minlen =>
    have hmin : minlen < 256 := of_decide_eq_true h
    simp only [commandOf, opcode, operandBits, f8, Option.some.injEq, Instr.validate.injEq]
    omega
  | execute idx =>
    have hidx : idx < 256 := of_decide_eq_true h
    simp only [commandOf, opcode, operandBits, f8, Option.some.injEq, Instr.execute.injEq]
    omega
  | pchk sel off len =>
    obtain ⟨hoff, hlen⟩ : off < 256 ∧ len < 256 := by simpa [Instr.wf] using h
    have hsel : slice (encode (.pchk sel off len)) 24 24 = bufSelBit sel := by
      have hbit : bufSelBit sel < 2 := by cases sel <;> decide
      refine (slice_encode h 24 16).trans ?_
      rw [operandBits]
      omega
    simp only [commandOf, opcode, operandBits, f8, f16, hsel, bufSelOf_bufSelBit, Option.some.injEq, Instr.pchk.injEq, true_and]
    omega
  | hex2val off len =>
    obtain ⟨hoff, hlen⟩ : off < 256 ∧ len < 256 := by simpa [Instr.wf] using h
    simp only [commandOf, opcode, operandBits, f8, f16, Option.some.injEq, Instr.hex2val.injEq]
    omega
  | hex2str off len cap =>
    obtain ⟨⟨hoff, hlen⟩, hcap⟩ : (off < 256 ∧ len < 256) ∧ cap < 256 := by simpa [Instr.wf] using h
    simp only [commandOf, opcode, operandBits, f8, f16, f24, Option.some.injEq, Instr.hex2str.injEq]
    omega

/-- The row of an opcode gives a well-formed command of that opcode, whose operands are the word's bits from 8 up to the first that the format marks 0. -/
theorem commandOf_fields {op : Nat} {w : Word} {i : Instr} (h : commandOf op w = some i) :
    i.wf = true ∧ opcode i = op ∧ operandBits i = w.toNat / 2 ^ 8 % 2 ^ (firstZeroBit op - 8) := by
  unfold commandOf at h
  split at h
  case h_13 => cases h
  all_goals
    cases h
    refine ⟨by simp [Instr.wf, slice, Nat.mod_lt], rfl, ?_⟩
  case h_2 | h_4 | h_10 => rfl
  case h_3 =>
    have hsel : slice w 24 24 < 2 := Nat.mod_lt _ (by decide)
    rw [operandBits, bufSelBit_bufSelOf hsel]
    simp only [slice, firstZeroBit, Nat.reduceEqDiff, reduceIte]
    omega
  case h_7 | h_8 =>
    simp only [operandBits, slice, firstZeroBit, Nat.reduceEqDiff, or_false, reduceIte]
    omega
  all_goals exact (Nat.mod_one _).symm

/-! ## The two round trips -/

/-- Settles O6: the opcode and the fields of the word are the command's, and the bits above its operands are 0. -/
theorem decodeOfEncode : Obligations.DecodeOfEncode := by
  intro i h
  have hz := (firstZeroBit_bounds (opcode i)).1
  rw [decode_eq_ok_iff, slice_encode_opcode h, encode_toNat h, parts_lt_two_pow_iff (opcode_lt i) hz]
  exact ⟨commandOf_encode h, operandBits_lt h⟩

/-- Settles O7: a word whose bits from `firstZeroBit` on are 0 is its opcode and the bits above it. -/
theorem encodeOfDecode : Obligations.EncodeOfDecode := by
  intro w i h
  obtain ⟨hrow, hzero⟩ := (decode_eq_ok_iff w i).mp h
  obtain ⟨hwf, hop, hbits⟩ := commandOf_fields hrow
  have hparts : w.toNat = w.toNat % 256 + w.toNat / 2 ^ 8 * 2 ^ 8 := by omega
  have hfit : w.toNat / 2 ^ 8 < 2 ^ (firstZeroBit (slice w 7 0) - 8) := by
    rwa [← parts_lt_two_pow_iff (Nat.mod_lt _ (by decide)) (firstZeroBit_bounds _).1, ← hparts]
  refine ⟨hwf, BitVec.eq_of_toNat_eq ?_⟩
  rw [encode_toNat hwf, hop, hbits, Nat.mod_eq_of_lt hfit, slice_opcode]
  exact hparts.symm

/-! ## The block's step on a word -/

theorem blockStep_decoded {s : State} {i : Instr} (hb : s.busy = true) (h : decode s.pending = .ok i) :
    blockStep s = exec i s := by
  rw [blockStep, if_pos hb, runPending, h]

/-- A word that does not decode finishes ILLEGAL_COMMAND (30_encoding.md R71), which logs the word (60_exceptions.md R221). -/
theorem blockStep_undecoded {s : State} (hb : s.busy = true) (h : ¬∃ i, decode s.pending = .ok i) :
    blockStep s = .next (endedLog .illegalCommand .illegalCommand s.pending.toNat s) := by
  have hfinish : finish .illegalCommand s = endedLog .illegalCommand .illegalCommand s.pending.toNat s := finish_logged rfl s
  rw [blockStep, if_pos hb, runPending, ← hfinish]
  cases hd : decode s.pending with
  | ok i => exact absurd ⟨i, hd⟩ h
  | illegalOpcode op => rfl
  | reservedBits op => rfl

/-- Settles O8: `decodes_iff` says which words decode; every other one is undecoded. -/
theorem illegalWordsFinishIllegalCommand : Obligations.IllegalWordsFinishIllegalCommand := by
  intro s hb
  refine ⟨fun hbad => blockStep_undecoded hb fun hok => ?_, fun h1 h12 hzero => ?_⟩
  · obtain ⟨h1, h12, hzero⟩ := (decodes_iff _).mp hok
    obtain h0 | hhigh | ⟨b, hle, hlt, hset⟩ := hbad
    · omega
    · omega
    · exact absurd hset (by simp [hzero b hle hlt])
  · obtain ⟨i, hi⟩ := (decodes_iff _).mpr ⟨h1, h12, hzero⟩
    exact ⟨i, hi, blockStep_decoded hb hi⟩

end Sys2Proof.Machine
end

section
/-! The layout of a frame (O19): where each field of 30_encoding.md R81 stands, and what the two checksums of 41_codec.md R101 and R103 sum to. -/

namespace Sys2Proof.Machine

open Sys2Proof.Config

/-! ## The checksums -/

theorem lchk_lt (l : Nat) : lchk l < 16 := Nat.mod_lt _ (by decide)

/-- The length checksum makes the nibbles of a 12-bit length sum to 0 mod 16 (41_codec.md R101). -/
theorem lchk_nibbles {l : Nat} (h : l < 4096) : (lchk l + l % 16 + l / 16 % 16 + l / 256 % 16) % 16 = 0 := by
  simp only [lchk, nib]
  omega

theorem pchk_lt (bs : List Byte) : pchk bs < 65536 := Nat.mod_lt _ (by decide)

/-- The payload checksum makes the bytes it covers sum to 0 mod 65536 (41_codec.md R103). -/
theorem byteSum_add_pchk (bs : List Byte) : (byteSum bs + pchk bs) % 65536 = 0 := by
  simp only [pchk, sum16]
  omega

/-! ## The fields -/

/-- The characters of a part of a string, given what stands before it and after it. -/
theorem charsAt_part {f part : List Byte} {off len : Nat} (pre post : List Byte) (hf : f = pre ++ (part ++ post))
    (hoff : pre.length = off) (hlen : part.length = len) : charsAt f off len = part := by
  rw [charsAt, hf, List.drop_left' hoff, List.take_left' hlen]

/-- The fields of a frame in their order (30_encoding.md R81). -/
def frameFields (cfg : Params) (c v a p : List Byte) : List (List Byte) :=
  [[cfg.soiChar], v, a, c, lenField p.length, p, hex4 (pchk (frameBody c v a p)), [cfg.eoiChar]]

theorem buildFrame_eq_fields (cfg : Params) (c v a p : List Byte) :
    buildFrame cfg c v a p = (frameFields cfg c v a p).flatten := by
  simp [buildFrame, frameBody, frameFields]

/-- Field `k` of a frame stands after the fields before it. -/
theorem charsAt_field {cfg : Params} {c v a p field : List Byte} {off len : Nat} (k : Nat)
    (hk : (frameFields cfg c v a p)[k]? = some field) (hoff : ((frameFields cfg c v a p).take k).flatten.length = off)
    (hlen : field.length = len) : charsAt (buildFrame cfg c v a p) off len = field := by
  refine charsAt_part _ ((frameFields cfg c v a p).drop (k + 1)).flatten ?_ hoff hlen
  obtain ⟨hlt, rfl⟩ := List.getElem?_eq_some_iff.mp hk
  rw [buildFrame_eq_fields, ← List.flatten_cons, ← List.drop_eq_getElem_cons hlt, ← List.flatten_append, List.take_append_drop]

/-- The bytes that the payload checksum covers stand after SOI (41_codec.md R105). -/
theorem charsAt_body (cfg : Params) {c v a : List Byte} (p : List Byte) (hc : c.length = 4) (hv : v.length = 2)
    (ha : a.length = 2) : charsAt (buildFrame cfg c v a p) 1 (12 + p.length) = frameBody c v a p :=
  charsAt_part [cfg.soiChar] (hex4 (pchk (frameBody c v a p)) ++ [cfg.eoiChar]) (by simp [buildFrame]) rfl
    (frameBody_length p hc hv ha)

/-- EOI is the last byte of a frame. -/
theorem buildFrame_last (cfg : Params) {c v a : List Byte} (p : List Byte) (hc : c.length = 4) (hv : v.length = 2)
    (ha : a.length = 2) : (buildFrame cfg c v a p)[17 + p.length]? = some cfg.eoiChar := by
  have hlast : 17 + p.length = ([cfg.soiChar] ++ frameBody c v a p ++ hex4 (pchk (frameBody c v a p))).length := by
    simp [frameBody_length p hc hv ha]
    omega
  rw [hlast, buildFrame, List.getElem?_concat_length]

/-- Settles O19: each field after those before it, and the two checksums by their sums. -/
theorem frameLayout : Obligations.FrameLayout := by
  intro cfg c v a p hc hv ha hp
  refine ⟨buildFrame_length cfg p hc hv ha, rfl, ?ver, ?adr, ?cid, ⟨lchk p.length, lchk_lt _, lchk_nibbles (by omega), ?length⟩,
    ?payload, ⟨pchk (frameBody c v a p), pchk_lt _, ?sum, ?chksum⟩, buildFrame_last cfg p hc hv ha⟩
  case ver => exact charsAt_field 1 rfl rfl hv
  case adr => exact charsAt_field 2 rfl (by simp [frameFields, hv]) ha
  case cid => exact charsAt_field 3 rfl (by simp [frameFields, hv, ha]) hc
  case length => exact charsAt_field 4 rfl (by simp [frameFields, hv, ha, hc]) (lenField_length _)
  case payload => exact charsAt_field 5 rfl (by simp [frameFields, hv, ha, hc]) rfl
  case chksum => exact charsAt_field 6 rfl (by simp [frameFields, hv, ha, hc]; omega) (hex4_length _)
  case sum => rw [charsAt_body cfg p hc hv ha]; exact byteSum_add_pchk _

end Sys2Proof.Machine
end

section
/-! The codec's statements, first layer: what a read gives and how a command ends, in the terms of the statements; then the commands that build frames and checksums (O20, O21, O22). -/

namespace Sys2Proof.Machine

open Sys2Proof.Config

/-! ## A command that its mode allows -/

/-- BUILD to HEX2STR, and EXCHANGE, run outside FATAL (60_exceptions.md R226). -/
theorem exec_untilFatal {i : Instr} {s : State} (hi : rowOf i = .untilFatal) (h : s.mode ≠ .fatal) :
    exec i s = .next (bodyOf i s) :=
  exec_allowed (hi ▸ untilFatal_of_ne h)

/-! ## The end of a command, as the statements say it -/

theorem finish_eq_ended {o : OutcomeCode} (h : o.finishLog = none) (s : State) : finish o s = ended o s := finish_unlogged h s

theorem finish_ok (s : State) : finish .ok s = ended .ok s := finish_eq_ended rfl s

/-- A rule that logs its own failure and ends. -/
theorem finish_logRec {o : OutcomeCode} (h : o.finishLog = none) (c : LogCode) (a : Int) (s : State) :
    finish o (logRec c a s) = endedLog o c a s := finish_unlogged h _

theorem finish_badArgument (s : State) : finish .badArgument s = endedLog .badArgument .badArgument s.pending.toNat s :=
  finish_logged rfl s

/-! ## Reads, as the statements say them -/

/-- A run of reads gives what the buffer can give there, and draws free values only (10_state.md R38). -/
theorem readBytes_reads (b : Buf) (off len : Nat) (s : State) :
    ∃ bs d, bs.length = len ∧ Reads (s.buf b) off bs ∧ readBytes b off len s = (bs, { s with draws := d }) := by
  obtain ⟨d, hd⟩ := readBytes_state b off len s
  refine ⟨(readBytes b off len s).1, d, readBytes_length b off len s, fun i v hi h => ?_, by rw [← hd]⟩
  rw [readBytes_length] at hi
  exact readBytes_written hi h

/-- A run of reads inside the bytes that a buffer holds gives them and draws nothing. -/
theorem readBytes_holds {b : Buf} {s : State} {f : List Byte} {off len : Nat} (h : Holds (s.buf b) 0 f)
    (hl : off + len ≤ f.length) : readBytes b off len s = (charsAt f off len, s) := by
  have hlen : (charsAt f off len).length = len := by simp [charsAt]; omega
  have hread := readBytes_held (b := b) (off := off) (bs := charsAt f off len) (s := s) fun i hi => by
    rw [hlen] at hi
    rw [charsAt, List.getElem?_take_of_lt hi, List.getElem?_drop, ← h (off + i) (by omega), Nat.zero_add]
  rwa [hlen] at hread

/-- A hex field has the value of its characters, or a free one with NONHEX set (42_hexdecode.md R130). -/
theorem readHex_reads {len : Nat} (hl : len ≤ 15) (off : Nat) (s : State) :
    ∃ bs v d, bs.length = len ∧ Reads s.rx off bs ∧ HexValue bs v
      ∧ readHex off len s = (v, { s with nonhex := s.nonhex || hasNonhex bs, draws := d }) := by
  obtain ⟨bs, d, hlen, hreads, hr⟩ := readBytes_reads .rx off len s
  have hle : bs.length ≤ 15 := hlen.le.trans hl
  cases hp : parseHex bs with
  | some v =>
    exact ⟨bs, v, d, hlen, hreads, by simp [HexValue, hp], by simp [readHex, hr, hexval_parsed _ hle hp, hasNonhex, hp]⟩
  | none =>
    exact ⟨bs, (freeValue d).toNat, d + 1, hlen, hreads, by simpa [HexValue, hp] using BitVec.isLt _,
      by simp [readHex, hr, hexval_free _ hle hp, hasNonhex, hp]⟩

/-! ## BUILD, LCHK, PCHK (41_codec.md section 2) -/

/-- Settles O20: the payload is read, then its frame is written over TXBUF's first bytes. -/
theorem buildStoresTheFrame : Obligations.BuildStoresTheFrame := by
  intro s hmode
  rw [exec_untilFatal (i := .build) rfl hmode]
  refine ⟨fun hl => ?fits, fun hl => ?tooLong⟩
  case fits =>
    obtain ⟨p, d, hlen, hreads, hr⟩ := readBytes_reads .pl 0 s.pllen.toNat s
    refine ⟨p, _, d, hlen, hreads, stored_writeAll s.tx _, ?_⟩
    simp [bodyOf, buildBody, maxPayload, Nat.not_lt.mpr hl, hr, finish_ok, putFrame, frameOf, hlen]
  case tooLong => simp [bodyOf, buildBody, maxPayload, hl, finish_badArgument]

/-- Settles O21: the length checksum is the multiplier of R101's length word. -/
theorem lchkComputesTheLengthWord : Obligations.LchkComputesTheLengthWord := by
  intro l12 s hl hmode
  refine ⟨lchk l12, lchk_lt l12, lchk_nibbles hl, ?_⟩
  rw [exec_untilFatal (i := .lchk l12) rfl hmode]
  exact congrArg Host.Outcome.next (finish_ok _)

/-- Settles O22: the checksum of the bytes that the range reads as. -/
theorem pchkComputesThePayloadChecksum : Obligations.PchkComputesThePayloadChecksum := by
  intro sel off len s hmode
  rw [exec_untilFatal (i := .pchk sel off len) rfl hmode]
  refine ⟨fun hl => ?fits, fun hl => ?pastTheEnd⟩
  case fits =>
    obtain ⟨bs, d, hlen, hreads, hr⟩ := readBytes_reads (bufOfSel sel) off len s
    refine ⟨bs, pchk bs, d, hlen, ?_, pchk_lt bs, byteSum_add_pchk bs, ?_⟩
    · cases sel <;> exact hreads
    · simp [bodyOf, pchkBody, Nat.not_lt.mpr hl, hr, finish_ok]
  case pastTheEnd => simp [bodyOf, pchkBody, hl, finish_badArgument]

end Sys2Proof.Machine
end

section
/-! The validator (O23, O24, O25): what VALIDATE and the two checks of a received frame answer, given what their reads give (41_codec.md sections 3 and 4). -/

namespace Sys2Proof.Machine

open Sys2Proof.Config

/-! ## VALIDATE (41_codec.md R107) -/

/-- A return code of at most 7 is its own cause, any other is 7 (41_codec.md R108). -/
theorem causeIndex_of_ne_zero {rc : Nat} (h : rc ≠ 0) : causeIndex rc = if rc ≤ 6 then rc else 7 := by
  simp [causeIndex, Nat.one_le_iff_ne_zero.mpr h]

section
variable {s : State} {m : Nat}

theorem validate_negative (c : Bool) (h : s.rxlen.toInt < 0) : validate m c s = (.ioError, logRec .rxIoerr s.rxlen.toInt s) := by
  simp [validate, h]

theorem validate_zero (c : Bool) (h : s.rxlen.toInt = 0) : validate m c s = (.timeout, logRec .rxTimeout 0 s) := by
  simp [validate, h]

theorem validate_short (c : Bool) (h0 : 0 < s.rxlen.toInt) (h : s.rxlen.toInt < (max m 9 : Nat)) :
    validate m c s = (.shortRead, logRec .shortRead s.rxlen.toInt s) := by
  unfold validate
  dsimp only
  rw [if_neg (by omega), if_neg (by omega), if_pos (by simpa using h)]

/-- A reply that is long enough is decided by its return code. -/
theorem validate_received (h : (max m 9 : Nat) ≤ s.rxlen.toInt) {rc : Nat} {t : State} (hrc : readHex 7 2 s = (rc, t)) :
    validate m true s
      = if rc = 0 then (.ok, { t with rc := 0, result := BitVec.ofInt 64 s.rxlen.toInt })
        else (.rejected, logRec .rejected rc
          { t with rc := BitVec.ofNat 8 rc, result := BitVec.ofNat 64 (if rc ≤ 6 then rc else 7) }) := by
  unfold validate
  dsimp only
  rw [if_neg (by omega), if_neg (by omega), if_neg (by omega), if_neg (by simp), hrc]
  by_cases h0 : rc = 0
  · simp [h0]
  · simp [h0, causeIndex_of_ne_zero h0]

end

/-- Settles O23: the four outcomes of VALIDATE, in the order of its checks. -/
theorem validateChecksInOrder : Obligations.ValidateChecksInOrder := by
  intro m s hmode
  rw [exec_untilFatal (i := .validate m) rfl hmode]
  simp only [bodyOf, validateBody]
  refine ⟨fun h => ?negative, fun h => ?zero, fun h0 h => ?short, fun h => ?received⟩
  case negative => rw [validate_negative true h, finish_logRec rfl]
  case zero => rw [validate_zero true h, finish_logRec rfl]
  case short => rw [validate_short true h0 h, finish_logRec rfl]
  case received =>
    obtain ⟨bs, rc, d, hlen, hreads, hv, hr⟩ := readHex_reads (len := 2) (by decide) 7 s
    refine ⟨bs, rc, d, hlen, hreads, hv, ?_⟩
    rw [validate_received h hr]
    by_cases h0 : rc = 0
    · rw [if_pos h0, if_pos h0, finish_ok]
    · rw [if_neg h0, if_neg h0, finish_logRec rfl]

/-! ## CHKLEN (41_codec.md R112) -/

section
variable {s t : State}

theorem checkLength_negative (h : s.rxlen.toInt < 0) : checkLength s = (.ioError, logRec .rxIoerr s.rxlen.toInt s) := by
  simp [checkLength, h]

theorem checkLength_zero (h : s.rxlen.toInt = 0) : checkLength s = (.timeout, logRec .rxTimeout 0 s) := by
  simp [checkLength, h]

theorem checkLength_short (h0 : 0 < s.rxlen.toInt) (h : s.rxlen.toInt < 13) :
    checkLength s = (.shortRead, logRec .shortRead s.rxlen.toInt s) := by
  unfold checkLength
  dsimp only
  rw [if_neg (by omega), if_neg (by omega), if_pos h]

/-- A LENGTH field with a character that is not a hex digit. -/
theorem checkLength_nonhex {bs : List Byte} (h : 13 ≤ s.rxlen.toInt) (hr : readBytes .rx 9 4 s = (bs, t))
    (hp : parseHex bs = none) :
    checkLength s = (.badLchk, logRec .badLchk 0 t) := by
  unfold checkLength
  dsimp only
  rw [if_neg (by omega), if_neg (by omega), if_neg (by omega), hr]
  simp only [hp]

/-- A LENGTH field of hex digits is decided by its nibbles' sum. -/
theorem checkLength_hex {bs : List Byte} {w : Nat} (h : 13 ≤ s.rxlen.toInt) (hr : readBytes .rx 9 4 s = (bs, t))
    (hp : parseHex bs = some w) :
    checkLength s
      = if (w / 4096 + w % 16 + w / 16 % 16 + w / 256 % 16) % 16 = 0 then (.ok, { t with result := BitVec.ofNat 64 (w % 4096) })
        else (.badLchk, logRec .badLchk w { t with result := BitVec.ofNat 64 (w % 4096) }) := by
  have hnib : w / 4096 + nib (w % 4096) 0 + nib (w % 4096) 1 + nib (w % 4096) 2
      = w / 4096 + w % 16 + w / 16 % 16 + w / 256 % 16 := by
    simp only [nib]
    omega
  unfold checkLength
  dsimp only
  rw [if_neg (by omega), if_neg (by omega), if_neg (by omega), hr]
  simp only [hp, hnib, ne_eq, ite_not]

/-- Where CHKLEN's check ends OK, only RESULT took the declared length, and free values were drawn. -/
theorem checkLength_ok (h : (checkLength s).1 = .ok) :
    ∃ l d, l < 4096 ∧ checkLength s = (.ok, { s with result := BitVec.ofNat 64 l, draws := d }) := by
  rcases lt_trichotomy s.rxlen.toInt 0 with hn | hn | hn
  · simp [checkLength_negative hn] at h
  · simp [checkLength_zero hn] at h
  by_cases h13 : s.rxlen.toInt < 13
  · simp [checkLength_short hn h13] at h
  obtain ⟨bs, d, -, -, hr⟩ := readBytes_reads .rx 9 4 s
  cases hp : parseHex bs with
  | none => simp [checkLength_nonhex (by omega) hr hp] at h
  | some w =>
    have hlen := checkLength_hex (by omega) hr hp
    split_ifs at hlen with hsum
    · exact ⟨w % 4096, d, Nat.mod_lt _ (by decide), hlen⟩
    · simp [hlen] at h

end

/-- Settles O24: the outcomes of CHKLEN, in the order of its checks. -/
theorem chklenChecksTheLengthField : Obligations.ChklenChecksTheLengthField := by
  intro s hmode
  rw [exec_untilFatal (i := .chklen) rfl hmode]
  simp only [bodyOf, chklenBody]
  refine ⟨fun h => ?negative, fun h => ?zero, fun h0 h => ?short, fun h => ?received⟩
  case negative => rw [checkLength_negative h, finish_logRec rfl]
  case zero => rw [checkLength_zero h, finish_logRec rfl]
  case short => rw [checkLength_short h0 h, finish_logRec rfl]
  case received =>
    obtain ⟨bs, d, hlen, hreads, hr⟩ := readBytes_reads .rx 9 4 s
    refine ⟨bs, d, hlen, hreads, ?_⟩
    cases hp : parseHex bs with
    | none => rw [checkLength_nonhex h hr hp, finish_logRec rfl]
    | some w =>
      rw [checkLength_hex h hr hp]
      dsimp only
      split_ifs
      · rw [finish_ok]
      · rw [finish_logRec rfl]

/-! ## CHKSUM (41_codec.md R115), once the LENGTH field declares `l` -/

/-- CHKSUM ends as CHKLEN where CHKLEN fails. -/
theorem checkSum_of_checkLength_ne_ok {s : State} (h : (checkLength s).1 ≠ .ok) : checkSum s = checkLength s := by
  simp [checkSum, h]

section
variable {s t u w : State} {l : Nat} {cov chk : List Byte}

theorem checkSum_tooLong (hlen : checkLength s = (.ok, t)) (hl : t.result.toNat = l) (h : 110 < l) :
    checkSum s = (.badLchk, logRec .badLchk l t) := by
  simp [checkSum, hlen, hl, maxPayload, h]

theorem checkSum_short (hlen : checkLength s = (.ok, t)) (hl : t.result.toNat = l) (h : l ≤ 110) (hn : s.rxlen.toInt < 17 + l) :
    checkSum s = (.shortRead, logRec .shortRead s.rxlen.toInt t) := by
  simp [checkSum, hlen, hl, maxPayload, Nat.not_lt.mpr h, hn]

/-- A CHKSUM field with a character that is not a hex digit. -/
theorem checkSum_nonhex (hlen : checkLength s = (.ok, t)) (hl : t.result.toNat = l) (h : l ≤ 110) (hn : 17 + l ≤ s.rxlen.toInt)
    (hcov : readBytes .rx 1 (12 + l) t = (cov, u)) (hchk : readBytes .rx (13 + l) 4 u = (chk, w)) (hp : parseHex chk = none) :
    checkSum s = (.badChk, logRec .badChk 0 w) := by
  simp [checkSum, hlen, hl, maxPayload, Nat.not_lt.mpr h, Int.not_lt.mpr hn, hcov, hchk, hp]

/-- A CHKSUM field of hex digits is decided by its sum with the bytes it covers. -/
theorem checkSum_hex (hlen : checkLength s = (.ok, t)) (hl : t.result.toNat = l) (h : l ≤ 110) (hn : 17 + l ≤ s.rxlen.toInt)
    (hcov : readBytes .rx 1 (12 + l) t = (cov, u)) (hchk : readBytes .rx (13 + l) 4 u = (chk, w)) {v : Nat}
    (hp : parseHex chk = some v) :
    checkSum s = if (byteSum cov + v) % 65536 = 0 then (.ok, { w with result := BitVec.ofNat 64 v })
      else (.badChk, logRec .badChk v { w with result := BitVec.ofNat 64 v }) := by
  simp [checkSum, hlen, hl, maxPayload, Nat.not_lt.mpr h, Int.not_lt.mpr hn, hcov, hchk, hp, sum16]

end

/-- A declared length is what RESULT holds (10_state.md R26). -/
theorem toNat_declared {l : Nat} (h : l < 4096) : (BitVec.ofNat 64 l).toNat = l := by
  rw [BitVec.toNat_ofNat]
  omega

/-- Settles O25: CHKLEN's result first, then the checks of R115 in their order. -/
theorem chksumChecksThePayloadChecksum : Obligations.ChksumChecksThePayloadChecksum := by
  refine ⟨fun s t hmode ht hne => ?lengthFails, fun s u hmode hu hok => ?lengthOk⟩
  case lengthFails =>
    rw [exec_untilFatal (i := .chklen) rfl hmode] at ht
    cases ht
    rw [exec_untilFatal (i := .chksum) rfl hmode]
    simp only [bodyOf, chksumBody, checkSum_of_checkLength_ne_ok hne]
    rfl
  case lengthOk =>
    rw [exec_untilFatal (i := .chklen) rfl hmode] at hu
    cases hu
    obtain ⟨l, d, hl, hlen⟩ := checkLength_ok hok
    have hres := toNat_declared hl
    rw [exec_untilFatal (i := .chksum) rfl hmode]
    simp only [bodyOf, chklenBody, chksumBody, hlen, finish_result, finish_draws]
    refine ⟨l, hl, rfl, fun h => ?tooLong, fun h hn => ?short, fun h hn => ?received⟩
    case tooLong => rw [checkSum_tooLong hlen hres h, finish_logRec rfl]
    case short => rw [checkSum_short hlen hres h hn, finish_logRec rfl]
    case received =>
      obtain ⟨cov, e, hcovlen, hcovreads, hcov⟩ :=
        readBytes_reads .rx 1 (12 + l) { s with result := BitVec.ofNat 64 l, draws := d }
      obtain ⟨chk, g, hchklen, hchkreads, hchk⟩ :=
        readBytes_reads .rx (13 + l) 4 { s with result := BitVec.ofNat 64 l, draws := e }
      refine ⟨cov, chk, g, hcovlen, hcovreads, hchklen, hchkreads, ?_⟩
      cases hp : parseHex chk with
      | none => rw [checkSum_nonhex hlen hres h hn hcov hchk hp, finish_logRec rfl]
      | some v =>
        rw [checkSum_hex hlen hres h hn hcov hchk hp]
        dsimp only
        split_ifs
        · rw [finish_ok]
        · rw [finish_logRec rfl]

end Sys2Proof.Machine
end

section
/-! A frame against the checks (O26), and the acceptance of a reply with VERIFY_RX (O46). -/

namespace Sys2Proof.Machine

open Sys2Proof.Config

/-! ## The decoder reads back what the renderer wrote (42_hexdecode.md R130, R133) -/

theorem parseHexFrom_renderHex (a k v : Nat) : parseHexFrom a (renderHex k v) = some (a * 16 ^ k + v % 16 ^ k) := by
  induction k generalizing a with
  | zero => simp [renderHex, parseHexFrom, Nat.mod_one]
  | succ k ih =>
    rw [renderHex, parseHexFrom_cons, hexDigit_hexChar (Nat.mod_lt _ (by decide)), Option.bind_some, ih, pow_succ, Nat.mod_mul]
    congr 1
    ring

theorem parseHex_renderHex {k v : Nat} (h : v < 16 ^ k) : parseHex (renderHex k v) = some v := by
  rw [parseHex, parseHexFrom_renderHex, Nat.mod_eq_of_lt h]
  simp

/-! ## The checks of a frame that RXBUF holds -/

/-- The frame `f` has a right LENGTH field `w` that declares at most 110 characters, and goes up to its CHKSUM field, of value `v`: CHKSUM's check comes to the sum (41_codec.md R112, R115). -/
structure Summable (f : List Byte) (w v : Nat) : Prop where
  length : parseHex (charsAt f 9 4) = some w
  nibbles : (w / 4096 + w % 16 + w / 16 % 16 + w / 256 % 16) % 16 = 0
  bound : w % 4096 ≤ 110
  whole : 17 + w % 4096 ≤ f.length
  checksum : parseHex (charsAt f (13 + w % 4096) 4) = some v

/-- The bytes that the checksum covers and the checksum sum to 0 mod 65536 (41_codec.md R115). -/
abbrev SumsToZero (f : List Byte) (w v : Nat) : Prop := (byteSum (charsAt f 1 (12 + w % 4096)) + v) % 65536 = 0

section
variable {s : State} {f : List Byte} {w v : Nat}

/-- CHKLEN's check of a right LENGTH field. -/
theorem checkLength_holds (h : Summable f w v) (hrx : Holds s.rx 0 f) (hn : 13 ≤ s.rxlen.toInt) :
    checkLength s = (.ok, { s with result := BitVec.ofNat 64 (w % 4096) }) := by
  have hwhole := h.whole
  rw [checkLength_hex hn (readBytes_holds hrx (by omega)) h.length, if_pos h.nibbles]

/-- CHKSUM's check comes to the sum. -/
theorem checkSum_holds (h : Summable f w v) (hrx : Holds s.rx 0 f) (hn : (17 + w % 4096 : Nat) ≤ s.rxlen.toInt) :
    checkSum s = if SumsToZero f w v then (.ok, { s with result := BitVec.ofNat 64 v })
      else (.badChk, logRec .badChk v { s with result := BitVec.ofNat 64 v }) := by
  have hwhole := h.whole
  exact checkSum_hex (checkLength_holds h hrx (by omega)) (toNat_declared (Nat.mod_lt _ (by decide))) h.bound
    (by exact_mod_cast hn) (readBytes_holds hrx (by omega)) (readBytes_holds hrx (by omega)) h.checksum

end

/-- The nibbles of a length word: its top digit and those of the length (30_encoding.md R83). -/
theorem lengthWord_nibbles (k : Nat) {l : Nat} (h : l < 4096) :
    (k * 4096 + l) / 4096 + (k * 4096 + l) % 16 + (k * 4096 + l) / 16 % 16 + (k * 4096 + l) / 256 % 16
      = k + l % 16 + l / 16 % 16 + l / 256 % 16 := by
  have h3 : (k * 4096 + l) / 4096 = k := by omega
  have h0 : (k * 4096 + l) % 16 = l % 16 := by omega
  have h1 : (k * 4096 + l) / 16 % 16 = l / 16 % 16 := by omega
  have h2 : (k * 4096 + l) / 256 % 16 = l / 256 % 16 := by omega
  rw [h3, h0, h1, h2]

/-- A frame that BUILD can build declares its payload's length and carries the checksum of its body (41_codec.md R106). -/
theorem buildFrame_summable (cfg : Params) {c v a p : List Byte} (hc : c.length = 4) (hv : v.length = 2) (ha : a.length = 2)
    (hp : p.length ≤ 110) :
    ∃ w, w % 4096 = p.length ∧ Summable (buildFrame cfg c v a p) w (pchk (frameBody c v a p)) := by
  obtain ⟨hlen, -, -, -, -, ⟨k, hk, hnib, hlength⟩, -, ⟨j, hj, hsum, hchksum⟩, -⟩ := frameLayout cfg c v a p hc hv ha hp
  have hdeclared : (k * 4096 + p.length) % 4096 = p.length := by omega
  have hpchk : j = pchk (frameBody c v a p) := by
    rw [charsAt_body cfg p hc hv ha] at hsum
    have := byteSum_add_pchk (frameBody c v a p)
    have := pchk_lt (frameBody c v a p)
    omega
  refine ⟨k * 4096 + p.length, hdeclared, ?_, ?_, ?_, ?_, ?_⟩
  · rw [hlength, parseHex_renderHex (by omega)]
  · rwa [lengthWord_nibbles k (by omega)]
  · omega
  · omega
  · rw [hdeclared, hchksum, parseHex_renderHex (by omega), hpchk]

/-- Settles O26: the frame's two fields are the ones the checks ask for. -/
theorem builtFramesPassBothChecks : Obligations.BuiltFramesPassBothChecks := by
  intro s cfg c v a p hmode hc hv ha hp hrx hn
  obtain ⟨w, hw, hframe⟩ := buildFrame_summable cfg hc hv ha hp
  have hzero : SumsToZero (buildFrame cfg c v a p) w (pchk (frameBody c v a p)) := by
    rw [SumsToZero, hw, charsAt_body cfg p hc hv ha]
    exact byteSum_add_pchk _
  have hlength := checkLength_holds hframe hrx (by omega)
  have hsum := checkSum_holds hframe hrx (by rwa [hw])
  rw [hw] at hlength
  rw [if_pos hzero] at hsum
  rw [exec_untilFatal (i := .chklen) rfl hmode, exec_untilFatal (i := .chksum) rfl hmode]
  simp only [bodyOf, chklenBody, chksumBody, hlength, hsum, finish_ok, and_self]

/-! ## Acceptance with VERIFY_RX (41_codec.md R118) -/

/-- A reply that passes VALIDATE and CHKLEN is accepted exactly if its checksum is right. -/
theorem accept_verified {s : State} {reply : List Byte} {m w v : Nat} (hverify : s.cfg.verifyRx = true) (hrx : HoldsOnly s.rx reply)
    (hn : s.rxlen.toInt = reply.length) (hm : m ≤ reply.length) (hrc : parseHex (charsAt reply 7 2) = some 0)
    (h : Summable reply w v) :
    accept m true s
      = if SumsToZero reply w v then (.ok, accepted reply s)
        else (.badChk, logRec .badChk v { s with rc := 0, result := BitVec.ofNat 64 v }) := by
  have hwhole := h.whole
  have hvalid : validate m true s = (.ok, accepted reply s) := validate_reply hrx hn hm (by omega) hrc
  have hsum := checkSum_holds (s := accepted reply s) h (fun i _ => by rw [Nat.zero_add]; exact hrx i)
    (by rw [show (accepted reply s).rxlen.toInt = reply.length from hn]; exact_mod_cast hwhole)
  unfold accept
  dsimp only
  rw [hvalid, if_pos ⟨rfl, hverify⟩]
  by_cases hzero : SumsToZero reply w v
  · rw [if_pos hzero] at hsum ⊢
    rw [hsum]
    simp [accepted, hn]
  · rw [if_neg hzero] at hsum ⊢
    rw [hsum]
    rfl

/-- An answered attempt whose reply passes VALIDATE and CHKLEN is OK exactly if the reply's checksum is right. -/
theorem exchangeAccept_verified {s : State} {sends : List Int} {recvs : List RecvAnswer} {reply c : List Byte} {m w v : Nat}
    (hans : AnswersReply s sends recvs reply) (hc : c.length = 4) (p : List Byte) (hverify : s.cfg.verifyRx = true)
    (hm : m ≤ reply.length) (hrc : parseHex (charsAt reply 7 2) = some 0) (h : Summable reply w v) :
    ∃ tx rx, Stored s.tx tx (frameOf s c p) ∧ HoldsOnly rx reply ∧ exchangeAccept c p m true s
      = if SumsToZero reply w v then (.ok, accepted reply (exchanged tx rx (frameOf s c p) reply sends recvs s))
        else (.badChk, logRec .badChk v
          { exchanged tx rx (frameOf s c p) reply sends recvs s with rc := 0, result := BitVec.ofNat 64 v }) := by
  have hle : reply.length ≤ 128 := by
    obtain ⟨_, _, _, -, -, -, rfl⟩ := hans
    exact List.length_take_le _ _
  refine ⟨_, _, stored_writeAll s.tx _, Memory.read_writeAll_nil reply, ?_⟩
  rw [exchangeAccept, exchange_answered hans hc]
  exact accept_verified hverify (Memory.read_writeAll_nil reply) (toInt_count hle) hm hrc h

/-! ## The tick around its acceptance (44_pollfsm.md R180) -/

theorem tickPublish_mark (ph : Phase) (s : State) : (tickPublish ph s).store.mark = .fresh := rfl

theorem tickPublish_result (ph : Phase) (s : State) : (tickPublish ph s).result = s.result := by
  obtain ⟨es, l, x, d, nx, df, h⟩ := tickPublish_state ph s
  rw [h]

/-- Settles O46: the exchange, its acceptance, then the batch or MARK_STALE (44_pollfsm.md R180). -/
theorem verifyingTicksCheckTheChecksums : Obligations.VerifyingTicksCheckTheChecksums := by
  intro s sends recvs reply w v hmode hverify hans hmin hrc hw hnib hl hlen hv
  have hm : minReply s.phase ≤ reply.length := by
    cases hph : s.phase <;> rw [hph] at hmin <;> exact hmin
  obtain ⟨tx, rx, -, -, hx⟩ := exchangeAccept_verified hans (asciiChars4_length (reqCid s.cfg s.phase))
    (reqPayload s.cfg s.phase) hverify hm hrc ⟨hw, hnib, hl, hlen, hv⟩
  refine ⟨_, exec_allowed (i := .tick) (by rw [hmode]; rfl), ?_⟩
  simp only [bodyOf, tickBody, hx]
  by_cases hzero : SumsToZero reply w v
  · simp only [if_pos hzero]
    exact ⟨rfl, tickPublish_result _ _, tickPublish_mark _ _⟩
  · simp only [if_neg hzero]
    exact ⟨rfl, rfl, rfl, rfl⟩

end Sys2Proof.Machine
end

section
/-! The hex decoder (O18) and its two commands (O27, O28): what `hexval` answers (42_hexdecode.md R130), and what the pairs loop decodes (R134), said once as the relation `DecodesTo`. -/

namespace Sys2Proof.Machine

open Sys2Proof.Config

/-! ## Strings of hex digits (42_hexdecode.md R130) -/

theorem parseHexFrom_append (v : Nat) (s t : List Byte) :
    parseHexFrom v (s ++ t) = (parseHexFrom v s).bind fun w => parseHexFrom w t := by
  induction s generalizing v with
  | nil => rfl
  | cons c s ih => simp only [List.cons_append, parseHexFrom_cons, ih, Option.bind_assoc]

theorem parseHex_singleton (c : Byte) : parseHex [c] = hexDigit c := by
  rw [parseHex, parseHexFrom_cons]
  cases hexDigit c <;> simp [parseHexFrom]

/-- One more digit on the right: the value before it counts 16 times. -/
theorem parseHex_append_singleton (bs : List Byte) (c : Byte) :
    parseHex (bs ++ [c]) = (parseHex bs).bind fun v => (parseHex [c]).map fun d => 16 * v + d := by
  rw [parseHex_singleton, parseHex, parseHexFrom_append, ← parseHex]
  congr 1
  funext v
  rw [parseHexFrom_cons]
  cases hexDigit c <;> rfl

/-- R9's three ranges of hex digits, each value counted from the range's first character. -/
theorem hexDigit_eq (c : Byte) : hexDigit c =
    if 0x30 ≤ c.toNat ∧ c.toNat ≤ 0x39 then some (c.toNat - 0x30)
    else if 0x41 ≤ c.toNat ∧ c.toNat ≤ 0x46 then some (c.toNat - 0x41 + 10)
    else if 0x61 ≤ c.toNat ∧ c.toNat ≤ 0x66 then some (c.toNat - 0x61 + 10)
    else none := by
  unfold hexDigit
  refine if_congr Iff.rfl rfl (ite_congr rfl (fun upper => ?_) fun _ => ite_congr rfl (fun lower => ?_) fun _ => rfl)
  · exact congrArg some (by omega)
  · exact congrArg some (by omega)

/-! ## hexval -/

theorem hexval_tooLong {bs : List Byte} (s : State) (h : 15 < bs.length) : hexval bs s = (0, s) := if_pos h

/-- hexval of at most 15 characters: their value or a free one, NONHEX set exactly where one is not a hex digit. -/
theorem hexval_hexValue {bs : List Byte} (s : State) (hl : bs.length ≤ 15) :
    ∃ v d, HexValue bs v ∧ hexval bs s = (v, { s with nonhex := s.nonhex || hasNonhex bs, draws := d }) := by
  cases hp : parseHex bs with
  | some v => exact ⟨v, s.draws, by simp [HexValue, hp], by simp [hexval_parsed s hl hp, hasNonhex, hp]⟩
  | none =>
    exact ⟨(freeValue s.draws).toNat, s.draws + 1, by simpa [HexValue, hp] using BitVec.isLt _,
      by simp [hexval_free s hl hp, hasNonhex, hp]⟩

theorem HexValue.eq_of_parse {bs : List Byte} {v w : Nat} (h : HexValue bs v) (hp : parseHex bs = some w) : v = w := by
  simpa [HexValue, hp] using h

/-- Settles O18: the decoder undoes the renderer digit by digit, and hexval is the decoder or a free value. -/
theorem hexvalRecoversRenderedNumbers : Obligations.HexvalRecoversRenderedNumbers := by
  refine ⟨?rendered, fun c => (parseHex_singleton c).trans (hexDigit_eq c), rfl, ?oneMore, fun bs s =>
    ⟨hexval_tooLong s, fun hl v hp => ⟨parseHex_lt hp, hexval_parsed s hl hp⟩,
      fun hl hp => ⟨_, s.draws + 1, (freeValue s.draws).isLt, hexval_free s hl hp⟩⟩⟩
  case rendered =>
    intro k v s _ hk hv
    exact hexval_parsed s (by simpa using hk) (parseHex_renderHex hv)
  case oneMore =>
    intro bs c
    rw [parseHex_append_singleton]
    cases parseHex bs <;> cases parseHex [c] <;> rfl

/-- Settles O27: R131's two checks, then the field as `readHex` gives it. -/
theorem hex2valDecodesTheField : Obligations.Hex2valDecodesTheField := by
  intro off len s hmode
  rw [exec_untilFatal (i := .hex2val off len) rfl hmode]
  refine ⟨fun hl => ?tooLong, fun hl hpast => ?pastTheEnd, fun hl hfits => ?fits⟩
  case tooLong => simp [bodyOf, hex2valBody, hl, finish_ok]
  case pastTheEnd => simp [bodyOf, hex2valBody, Nat.not_lt.mpr hl, hpast, finish_badArgument]
  case fits =>
    obtain ⟨bs, v, d, hlen, hreads, hv, hr⟩ := readHex_reads hl off s
    refine ⟨bs, v, d, hlen, hreads, hv, ?_⟩
    simp [bodyOf, hex2valBody, Nat.not_lt.mpr hl, Nat.not_lt.mpr hfits, hr, finish_ok]

/-! ## The pairs loop (42_hexdecode.md R134) -/

/-- `DecodesTo n bs out x`: from the pairs of `bs` the loop for at most `n` bytes can write `out`, having met a character that is not a hex digit exactly if `x`. -/
inductive DecodesTo : Nat → List Byte → List Byte → Bool → Prop
  | full (bs : List Byte) : DecodesTo 0 bs [] false
  | space {n v : Nat} {a b : Byte} (rest : List Byte) (hv : HexValue [a, b] v) (hspace : v % 256 = 0x20) :
      DecodesTo (n + 1) (a :: b :: rest) [] (hasNonhex [a, b])
  | byte {n v : Nat} {a b : Byte} {rest out : List Byte} {x : Bool} (hv : HexValue [a, b] v) (hbyte : v % 256 ≠ 0x20)
      (hrest : DecodesTo n rest out x) :
      DecodesTo (n + 1) (a :: b :: rest) (BitVec.ofNat 8 v :: out) (hasNonhex [a, b] || x)

/-- The loop of the model answers what `DecodesTo` allows, where the characters suffice for `n` pairs. -/
theorem decodePairs_decodesTo {n : Nat} {bs : List Byte} (h : 2 * n ≤ bs.length) (s : State) :
    ∃ out x d, DecodesTo n bs out x ∧ decodePairs n bs s = (out, { s with nonhex := s.nonhex || x, draws := d }) := by
  induction n generalizing bs s with
  | zero => exact ⟨[], false, s.draws, .full bs, by simp [decodePairs]⟩
  | succ n ih =>
    match bs, h with
    | a :: b :: rest, h =>
      obtain ⟨v, d, hv, hval⟩ := hexval_hexValue (bs := [a, b]) s (by simp)
      by_cases hspace : v % 256 = 0x20
      · exact ⟨[], hasNonhex [a, b], d, .space rest hv hspace, by simp [decodePairs, hval, hspace]⟩
      · obtain ⟨out, x, e, hrest, hloop⟩ := ih (bs := rest) (by simp only [List.length_cons] at h; omega)
          { s with nonhex := s.nonhex || hasNonhex [a, b], draws := d }
        exact ⟨_, _, e, .byte hv hspace hrest, by simp [decodePairs, hval, hspace, hloop, Bool.or_assoc]⟩

theorem charsAt_pair_zero (a b : Byte) (rest : List Byte) : charsAt (a :: b :: rest) (2 * 0) 2 = [a, b] := rfl

theorem charsAt_pair_succ (a b : Byte) (rest : List Byte) (j : Nat) :
    charsAt (a :: b :: rest) (2 * (j + 1)) 2 = charsAt rest (2 * j) 2 := rfl

namespace DecodesTo

variable {n : Nat} {bs out : List Byte} {x : Bool}

theorem length_le (h : DecodesTo n bs out x) : out.length ≤ n := by
  induction h with
  | full => exact Nat.le_refl 0
  | space => exact Nat.zero_le _
  | byte _ _ _ ih => exact Nat.succ_le_succ ih

/-- A decoded space is not written. -/
theorem space_notMem (h : DecodesTo n bs out x) : (0x20 : Byte) ∉ out := by
  induction h with
  | full | space => exact List.not_mem_nil
  | byte _ hbyte _ ih =>
    refine List.not_mem_cons_of_ne_of_not_mem (fun heq => hbyte ?_) ih
    simpa using (congrArg BitVec.toNat heq).symm

/-- Each byte written is its pair's value. -/
theorem getElem?_of_parse (h : DecodesTo n bs out x) {j v : Nat} (hj : j < out.length)
    (hp : parseHex (charsAt bs (2 * j) 2) = some v) : out[j]? = some (BitVec.ofNat 8 v) := by
  induction h generalizing j with
  | full | space => exact absurd hj (Nat.not_lt_zero j)
  | byte hv _ _ ih =>
    cases j with
    | zero => rw [List.getElem?_cons_zero, hv.eq_of_parse hp]
    | succ j => exact ih (Nat.lt_of_succ_lt_succ hj) hp

/-- A string shorter than the loop allows was ended by a space, if its next pair is hex. -/
theorem eq_space_of_parse (h : DecodesTo n bs out x) {v : Nat} (hshort : out.length < n)
    (hp : parseHex (charsAt bs (2 * out.length) 2) = some v) : v = 0x20 := by
  induction h with
  | full => exact absurd hshort (Nat.lt_irrefl 0)
  | space rest hv hspace =>
    have hlt : v < 16 ^ 2 := parseHex_lt hp
    rw [hv.eq_of_parse hp] at hspace
    omega
  | byte _ _ _ ih => exact ih (Nat.lt_of_succ_lt_succ hshort) hp

/-- NONHEX is set exactly where one of the pairs that the loop reads, those written and the one that ends it, is not hex. -/
theorem nonhex_iff (h : DecodesTo n bs out x) :
    x = true ↔ ∃ j, j ≤ out.length ∧ j < n ∧ parseHex (charsAt bs (2 * j) 2) = none := by
  induction h with
  | full => simp
  | space rest _ _ =>
    rw [hasNonhex, Option.isNone_iff_eq_none]
    constructor
    · exact fun hnone => ⟨0, Nat.le_refl 0, Nat.succ_pos _, hnone⟩
    · rintro ⟨j, hj, -, hnone⟩
      obtain rfl : j = 0 := Nat.le_zero.mp hj
      exact hnone
  | byte _ _ _ ih =>
    rw [Bool.or_eq_true, hasNonhex, Option.isNone_iff_eq_none, ih]
    constructor
    · rintro (hnone | ⟨j, hj, hn, hnone⟩)
      · exact ⟨0, Nat.zero_le _, Nat.succ_pos _, hnone⟩
      · exact ⟨j + 1, Nat.succ_le_succ hj, Nat.succ_lt_succ hn, hnone⟩
    · rintro ⟨j | j, hj, hn, hnone⟩
      · exact .inl hnone
      · exact .inr ⟨j, Nat.le_of_succ_le_succ hj, Nat.lt_of_succ_lt_succ hn, hnone⟩

end DecodesTo

/-- strFromHex writes what the loop decodes, and its terminator, from STRBUF's first byte on. -/
theorem strFromHex_decodesTo {k : Nat} {bs : List Byte} (h : k ≤ bs.length) (cap : Nat) (s : State) :
    ∃ out x d, DecodesTo (min (k / 2) (cap - 1)) bs out x ∧ strFromHex bs k cap s
      = (out, { s with str := Memory.writeAll s.str 0 (out ++ [0x00]), nonhex := s.nonhex || x, draws := d }) := by
  obtain ⟨out, x, d, hdec, hloop⟩ := decodePairs_decodesTo (n := min (k / 2) (cap - 1)) (bs := bs) (by omega) s
  exact ⟨out, x, d, hdec, by rw [strFromHex, hloop]⟩

/-! ## HEX2STR (42_hexdecode.md R135) -/

theorem hex2strBody_badArgument {off len cap : Nat} (h : cap = 0 ∨ 128 < cap ∨ 128 < off + len) (s : State) :
    hex2strBody off len cap s = endedLog .badArgument .badArgument s.pending.toNat s := by
  unfold hex2strBody
  split
  · exact finish_badArgument s
  · rw [if_pos (by omega), finish_badArgument]

/-- Settles O28: R135's checks, then the string as the pairs loop decodes it. -/
theorem hex2strDecodesTheString : Obligations.Hex2strDecodesTheString := by
  intro off len cap s hmode
  rw [exec_untilFatal (i := .hex2str off len cap) rfl hmode]
  refine ⟨fun hbad => congrArg Host.Outcome.next (hex2strBody_badArgument hbad s), fun hpos hcap hfits => ?decodes⟩
  obtain ⟨bs, d, hlen, hreads, hr⟩ := readBytes_reads .rx off len s
  obtain ⟨out, x, e, hdec, hstr⟩ := strFromHex_decodesTo hlen.ge cap { s with draws := d }
  refine ⟨bs, out, _, s.nonhex || x, e, hlen, hreads, hdec.length_le,
    fun j hj => ⟨fun hspace => hdec.space_notMem (List.mem_of_getElem? hspace), fun v => hdec.getElem?_of_parse hj⟩,
    fun hshort v => hdec.eq_space_of_parse hshort, ?nonhex, stored_writeAll s.str _, ?next⟩
  case nonhex => rw [Bool.or_eq_true, hdec.nonhex_iff]
  case next =>
    have hroom : ¬(cap = 0 ∨ 128 < cap) := by omega
    simp [bodyOf, hex2strBody, hroom, Nat.not_lt.mpr hfits, hr, hstr, finish_ok]

end Sys2Proof.Machine
end

section
/-! FATAL is for good (O10), and which commands use the ports (O17): from the cases of a turn and the writes of each command. -/

namespace Sys2Proof.Machine

open Sys2Proof.Config

/-! ## FATAL (43_exchange_dispatch.md R171) -/

/-- In FATAL no row of the mode table allows a command (60_exceptions.md R226). -/
theorem exec_fatal {s : State} (h : s.mode = .fatal) (i : Instr) :
    exec i s = .next (endedLog .wrongMode .wrongMode s.pending.toNat s) := by
  rw [exec_wrongMode (by rw [h]; cases rowOf i <;> rfl), finish_logged rfl]
  rfl

/-- The block's turn keeps FATAL: a command there ends WRONG_MODE, and an illegal word changes no mode. -/
theorem blockStep_fatal {s t : State} (hm : s.mode = .fatal) (h : blockStep s = .next t) : t.mode = .fatal := by
  obtain ⟨-, rfl⟩ | ⟨-, i, -, he⟩ | ⟨-, -, rfl⟩ := blockStep_cases h
  · exact hm
  · rw [exec_fatal hm] at he
    cases he
    exact hm
  · exact hm

/-- Settles O10: by the kind of turn. -/
theorem fatalIsForGood : Obligations.FatalIsForGood := by
  refine fun s hm => ⟨exec_fatal hm, fun turn t h => ?_⟩
  cases turn with
  | block => exact .inl (blockStep_fatal hm h)
  | hostRead w a => cases h; exact .inl ((hostRead_mode w a s).trans hm)
  | hostWrite w a v => cases h; exact .inl ((hostWrite_control w a v s).1.trans hm)
  | reset => cases h; exact .inr ⟨rfl, rfl⟩

/-! ## The ports -/

/-- A part of the state that `finish` leaves alone and a command's own rule leaves as it was is as it was after the command. -/
theorem exec_keeps {α : Type} (f : State → α) (hfinish : ∀ o u, f (finish o u) = f u) {i : Instr} {s t : State}
    (hbody : f (bodyOf i s) = f s) (h : exec i s = .next t) : f t = f s := by
  rw [exec_eq] at h
  cases h
  split
  · exact hbody
  · exact hfinish _ s

/-- The commands of the first row of 60_exceptions.md R226 write no part of the store, and only EXCHANGE among them uses the transport. -/
theorem bodyOf_ports {i : Instr} (hi : rowOf i = .untilFatal) (s : State) :
    (bodyOf i s).store = s.store ∧ (i ≠ .exchange → (bodyOf i s).transport = s.transport) := by
  cases i with
  | build => obtain ⟨_, _, _, _, h⟩ := buildBody_state s; rw [bodyOf, h]; exact ⟨rfl, fun _ => rfl⟩
  | lchk l12 => exact ⟨rfl, fun _ => rfl⟩
  | pchk sel off len => obtain ⟨_, _, _, h⟩ := pchkBody_state sel off len s; rw [bodyOf, h]; exact ⟨rfl, fun _ => rfl⟩
  | validate m => obtain ⟨_, _, _, _, _, _, h⟩ := validateBody_state m s; rw [bodyOf, h]; exact ⟨rfl, fun _ => rfl⟩
  | chklen => obtain ⟨_, _, _, _, h⟩ := chklenBody_state s; rw [bodyOf, h]; exact ⟨rfl, fun _ => rfl⟩
  | chksum => obtain ⟨_, _, _, _, h⟩ := chksumBody_state s; rw [bodyOf, h]; exact ⟨rfl, fun _ => rfl⟩
  | hex2val off len => obtain ⟨_, _, _, _, h⟩ := hex2valBody_state off len s; rw [bodyOf, h]; exact ⟨rfl, fun _ => rfl⟩
  | hex2str off len cap =>
    obtain ⟨_, _, _, _, _, h⟩ := hex2strBody_state off len cap s
    rw [bodyOf, h]
    exact ⟨rfl, fun _ => rfl⟩
  | exchange =>
    obtain ⟨_, _, _, _, _, _, _, _, h⟩ := exchangeBody_state s
    rw [bodyOf, h]
    exact ⟨rfl, fun hne => absurd rfl hne⟩
  | execute idx => cases hi
  | tick => cases hi
  | probe => cases hi

/-- What the attempts leave as it was, and that the log only grows. -/
theorem Attempted.keeps {s t : State} (h : Attempted s t) :
    t.phase = s.phase ∧ t.store = s.store ∧ t.str = s.str ∧ t.strlen = s.strlen ∧ t.dataflag = s.dataflag ∧ t.mode = s.mode
    ∧ ∃ l, t.log = s.log ++ l := by
  obtain ⟨tx, n, rx, m, tr, l, d, x, rc, r, a, rfl⟩ := h
  exact ⟨rfl, rfl, rfl, rfl, rfl, rfl, l, rfl⟩

theorem executeAttempts_attempted (code : List Byte) (s : State) : Attempted s (executeAttempts code s).2 :=
  retry_attempted (asciiChars4 s.cfg.cidRemote) code 13 true [1, 2, 3] .ok s

/-- EXECUTE emits no store event (43_exchange_dispatch.md R160). -/
theorem executeBody_store (idx : Nat) (s : State) : (executeBody idx s).store = s.store := by
  unfold executeBody
  split
  · rfl
  · rename_i code _
    obtain ⟨-, hstore, -⟩ := (executeAttempts_attempted code s).keeps
    dsimp only
    split
    · rw [finish_store, hstore]
    · rw [finish_store, logRec_store, hstore]

/-- Settles O17: by the row of the command in the mode table. -/
theorem onlyPortCommandsUseThePorts : Obligations.OnlyPortCommandsUseThePorts := by
  intro i s t h
  cases hi : rowOf i with
  | untilFatal =>
    obtain ⟨hstore, htransport⟩ := bodyOf_ports hi s
    exact ⟨fun hne _ _ _ => exec_keeps State.transport finish_transport (htransport hne) h,
      fun _ _ => exec_keeps State.store finish_store hstore h⟩
  | runningOnly =>
    cases i with
    | execute idx =>
      exact ⟨fun _ hne _ _ => absurd rfl (hne idx),
        fun _ _ => exec_keeps State.store finish_store (i := .execute idx) (executeBody_store idx s) h⟩
    | tick => exact ⟨fun _ _ hne _ => absurd rfl hne, fun hne _ => absurd rfl hne⟩
    | _ => cases hi
  | uninitOnly =>
    cases i with
    | probe => exact ⟨fun _ _ _ hne => absurd rfl hne, fun _ hne => absurd rfl hne⟩
    | _ => cases hi

end Sys2Proof.Machine
end

section
/-! EXCHANGE (O29, O30) and the requests of every exchange (O31): the payload is read, then the exchange by the transport's answers (43_exchange_dispatch.md R150 to R152). -/

namespace Sys2Proof.Machine

open Sys2Proof.Config

/-! ## The requests of an exchange (43_exchange_dispatch.md R152) -/

/-- Whatever it is answered, a receive is one request. -/
theorem receiveReply_requests (s : State) :
    (receiveReply s).transport.requests = s.transport.requests ++ [.recv 128] := by
  obtain ⟨_, _, _, _, _, -, h⟩ := receiveReply_state s
  rw [h]

/-- Settles O31: nothing is received after a failed send, and a receive is one request. -/
theorem oneFrameAndAtMostOneReceivePerExchange : Obligations.OneFrameAndAtMostOneReceivePerExchange := by
  intro c p s
  have hsent : (transportSend (frameOf s c p) (putFrame c p (transportFlush s))).2.transport.requests
      = s.transport.requests ++ [.flush, .send (frameOf s c p)] := by
    obtain ⟨a, d, h⟩ := transportSend_state (frameOf s c p) (putFrame c p (transportFlush s))
    rw [h]
    exact List.append_assoc _ [_] [_]
  have hreceived := receiveReply_requests (transportSend (frameOf s c p) (putFrame c p (transportFlush s))).2
  rw [hsent, List.append_assoc] at hreceived
  unfold exchange
  dsimp only
  split
  · exact .inl hsent
  split
  · exact .inl hsent
  · exact .inr hreceived

/-! ## EXCHANGE (43_exchange_dispatch.md R151) -/

/-- A received reply has 1 to 128 bytes (10_state.md R40). -/
theorem AnswersReply.length_bounds {s : State} {sends : List Int} {recvs : List RecvAnswer} {reply : List Byte}
    (h : AnswersReply s sends recvs reply) : 1 ≤ reply.length ∧ reply.length ≤ 128 := by
  obtain ⟨_, _, _, -, -, -, rfl⟩ := h
  exact ⟨by simp, by simp⟩

/-- The outcome of an exchange that left a byte count in RXLEN. -/
theorem exchangeOutcome_count {n : Nat} (h1 : 1 ≤ n) (h128 : n ≤ 128) : exchangeOutcome (BitVec.ofNat 16 n).toInt = .ok := by
  rw [toInt_count h128, exchangeOutcome, if_neg (by omega), if_neg (by omega)]

/-- An exchange whose send or receive failed with the result `r` ends TIMEOUT or IO_ERROR, which `finish` does not log. -/
theorem finish_exchangeOutcome_failed (r : Int) (s : State) :
    finish (exchangeOutcome (if r = 0 then (0 : BitVec 16) else -1).toInt) s
      = ended (if r = 0 then .timeout else .ioError) s := by
  by_cases h : r = 0
  · rw [if_pos h, if_pos h]
    exact finish_eq_ended rfl s
  · rw [if_neg h, if_neg h]
    exact finish_eq_ended rfl s

/-- A payload that fits is read, and exchanged. -/
theorem exec_exchange_fits {s : State} (hmode : s.mode ≠ .fatal) (hl : s.pllen.toNat ≤ 110) :
    ∃ p d, p.length = s.pllen.toNat ∧ Reads s.pl 0 p ∧ ∀ u, exchange (chars4 s.cid) p { s with draws := d } = u →
      exec .exchange s = .next (finish (exchangeOutcome u.rxlen.toInt) u) := by
  obtain ⟨p, d, hlen, hreads, hr⟩ := readBytes_reads .pl 0 s.pllen.toNat s
  refine ⟨p, d, hlen, hreads, ?_⟩
  rintro u rfl
  rw [exec_untilFatal (i := .exchange) rfl hmode]
  simp [bodyOf, exchangeBody, maxPayload, Nat.not_lt.mpr hl, hr]

/-- Settles O29: the exchange of an answered frame. -/
theorem exchangeReceivesTheReply : Obligations.ExchangeReceivesTheReply := by
  intro s sends recvs reply hmode hl ha
  obtain ⟨p, d, hlen, hreads, hexec⟩ := exec_exchange_fits hmode hl
  obtain ⟨h1, h128⟩ := ha.length_bounds
  refine ⟨p, _, _, d, hlen, hreads, stored_writeAll s.tx _, Memory.read_writeAll_nil reply, ?_⟩
  rw [hexec _ (exchange_answered (s := { s with draws := d }) ha (chars4_length s.cid) p)]
  rw [exchanged, exchangeOutcome_count h1 h128, finish_ok]
  rfl

/-- Settles O30: the payload's bound, then the exchange by the failing answer. -/
theorem exchangeReportsFailures : Obligations.ExchangeReportsFailures := by
  refine ⟨fun s hmode hl => ?tooLong, fun s r sends hmode hl hs => ?_⟩
  case tooLong =>
    rw [exec_untilFatal (i := .exchange) rfl hmode]
    simp [bodyOf, exchangeBody, maxPayload, hl, finish_badArgument]
  obtain ⟨p, d, hlen, hreads, hexec⟩ := exec_exchange_fits hmode hl
  refine ⟨fun hr => ?unsent, fun hr a recvs hq ha => ?unanswered⟩
  case unsent =>
    refine ⟨p, _, d, hlen, hreads, stored_writeAll s.tx _, ?_⟩
    rw [hexec _ (exchange_unsent (s := { s with draws := d }) (chars4 s.cid) p hr hs), finish_exchangeOutcome_failed, hlen]
    rfl
  case unanswered =>
    refine ⟨p, _, d, hlen, hreads, stored_writeAll s.tx _, ?_⟩
    rw [hexec _ (exchange_unanswered (s := { s with draws := d }) (chars4 s.cid) p hr hs hq ha), finish_exchangeOutcome_failed, hlen]
    rfl

end Sys2Proof.Machine
end

section
/-! The acceptance of what an exchange left (41_codec.md R118), whatever the reply holds: its outcome is the one `AcceptOutcome` names, and an accepted reply is written to RC and RESULT. -/

namespace Sys2Proof.Machine

open Sys2Proof.Config

/-! ## What an accepted reply writes -/

/-- A reply that is long enough is accepted where the return code is not checked. -/
theorem validate_unchecked {m : Nat} {s : State} (h : (max m 9 : Nat) ≤ s.rxlen.toInt) :
    validate m false s = (.ok, { s with result := s.rxlen.signExtend 64 }) := by
  unfold validate
  dsimp only
  rw [if_neg (by omega), if_neg (by omega), if_neg (by omega)]
  rfl

/-- VALIDATE's OK leaves the byte count in RESULT, and 0 in RC where the return code is checked (41_codec.md R107). -/
theorem validate_ok_writes {m : Nat} {c : Bool} {s : State} (h : (validate m c s).1 = .ok) :
    (validate m c s).2.result = s.rxlen.signExtend 64 ∧ (c = true → (validate m c s).2.rc = 0) := by
  have hlen := validate_ok h
  cases c with
  | false =>
    rw [validate_unchecked hlen]
    exact ⟨rfl, nofun⟩
  | true =>
    obtain ⟨bs, rc, d, -, -, -, hread⟩ := readHex_reads (len := 2) (by decide) 7 s
    rw [validate_received hlen hread] at h ⊢
    by_cases h0 : rc = 0
    · rw [if_pos h0]
      exact ⟨rfl, fun _ => rfl⟩
    · rw [if_neg h0] at h
      cases h

/-- An accepted reply leaves the byte count in RESULT, and 0 in RC where the return code is checked (41_codec.md R118). -/
theorem accept_ok_writes {m : Nat} {c : Bool} {s : State} (h : (accept m c s).1 = .ok) :
    (accept m c s).2.result = (accept m c s).2.rxlen.signExtend 64 ∧ (c = true → (accept m c s).2.rc = 0) := by
  obtain ⟨_, _, _, _, _, hvalid⟩ := validate_state m c s
  have hrxlen : (validate m c s).2.rxlen = s.rxlen := by rw [hvalid]
  obtain ⟨_, _, _, hsum⟩ := checkSum_state (validate m c s).2
  have hrc : (checkSum (validate m c s).2).2.rc = (validate m c s).2.rc := by rw [hsum]
  unfold accept at h ⊢
  dsimp only at h ⊢
  split_ifs at h ⊢ with hverify hok
  · exact ⟨rfl, fun hc => hrc.trans ((validate_ok_writes hverify.1).2 hc)⟩
  · exact absurd h hok
  · obtain ⟨hresult, hzero⟩ := validate_ok_writes h
    exact ⟨by rw [hresult, hrxlen], hzero⟩

/-! ## The outcome of a received reply -/

section
variable {s : State} {reply : List Byte}

/-- A reply that is long enough is REJECTED for its return code, or passes VALIDATE (41_codec.md R107). -/
theorem validate_outcome {m : Nat} (c : Bool) (hrx : HoldsOnly s.rx reply) (hn : s.rxlen.toInt = reply.length)
    (hm : max m 9 ≤ reply.length) :
    (c = true ∧ (validate m c s).1 = .rejected ∧ ∃ rc, HexValue (charsAt reply 7 2) rc ∧ rc ≠ 0)
    ∨ ((c = true → HexValue (charsAt reply 7 2) 0) ∧ (validate m c s).1 = .ok) := by
  cases c with
  | false =>
    rw [validate_unchecked (m := m) (by omega)]
    exact .inr ⟨nofun, rfl⟩
  | true =>
    obtain ⟨rc, d, hv, hval⟩ := hexval_hexValue (bs := charsAt reply 7 2) s (by simp [charsAt])
    have hread : readHex 7 2 s = _ := (readHex_reply hrx (by omega)).trans hval
    rw [validate_received (by omega) hread]
    by_cases h0 : rc = 0
    · rw [if_pos h0]
      exact .inr ⟨fun _ => h0 ▸ hv, rfl⟩
    · rw [if_neg h0]
      exact .inl ⟨rfl, rfl, rc, hv, h0⟩

/-- The outcome that the two checksums give a reply of at least 13 bytes (41_codec.md R112, R115). -/
def ChecksumOutcome (reply : List Byte) (o : OutcomeCode) : Prop :=
  match parseHex (charsAt reply 9 4) with
  | none => o = .badLchk
  | some w =>
    if (w / 4096 + w % 16 + w / 16 % 16 + w / 256 % 16) % 16 ≠ 0 ∨ 110 < w % 4096 then o = .badLchk
    else if reply.length < 17 + w % 4096 then o = .shortRead
    else match parseHex (charsAt reply (13 + w % 4096) 4) with
      | none => o = .badChk
      | some v => if (byteSum (charsAt reply 1 (12 + w % 4096)) + v) % 65536 = 0 then o = .ok else o = .badChk

/-- CHKSUM's checks come to the outcome of the reply's two checksums. -/
theorem checkSum_outcome (hrx : HoldsOnly s.rx reply) (hn : s.rxlen.toInt = reply.length) (h13 : 13 ≤ reply.length) :
    ChecksumOutcome reply (checkSum s).1 := by
  have hread {t : State} (ht : t.rx = s.rx) {off len : Nat} (hl : off + len ≤ reply.length) :
      readBytes .rx off len t = (charsAt reply off len, t) := readBytes_reply (ht ▸ hrx) hl
  have hfield := hread (t := s) rfl (off := 9) (len := 4) h13
  unfold ChecksumOutcome
  cases hp : parseHex (charsAt reply 9 4) with
  | none =>
    have hlen := checkLength_nonhex (by omega) hfield hp
    rw [checkSum_of_checkLength_ne_ok (by rw [hlen]; nofun), hlen]
  | some w =>
    have hlen := checkLength_hex (by omega) hfield hp
    have hl := toNat_declared (l := w % 4096) (Nat.mod_lt _ (by decide))
    dsimp only
    by_cases hnib : (w / 4096 + w % 16 + w / 16 % 16 + w / 256 % 16) % 16 = 0
    · rw [if_pos hnib] at hlen
      by_cases hbound : 110 < w % 4096
      · rw [if_pos (.inr hbound), checkSum_tooLong hlen hl hbound]
      rw [if_neg (by tauto)]
      by_cases hshort : reply.length < 17 + w % 4096
      · rw [if_pos hshort, checkSum_short hlen hl (by omega) (by omega)]
      rw [if_neg hshort]
      have hcov := hread (t := { s with result := BitVec.ofNat 64 (w % 4096) }) rfl (off := 1) (len := 12 + w % 4096) (by omega)
      have hchk := hread (t := { s with result := BitVec.ofNat 64 (w % 4096) }) rfl (off := 13 + w % 4096) (len := 4) (by omega)
      cases hv : parseHex (charsAt reply (13 + w % 4096) 4) with
      | none => rw [checkSum_nonhex hlen hl (by omega) (by omega) hcov hchk hv]
      | some v =>
        rw [checkSum_hex hlen hl (by omega) (by omega) hcov hchk hv]
        dsimp only
        split_ifs <;> rfl
    · rw [if_neg hnib] at hlen
      rw [if_pos (.inl hnib), checkSum_of_checkLength_ne_ok (by rw [hlen]; nofun), hlen]

/-- The acceptance of a reply has the outcome that the statements name (41_codec.md R118). -/
theorem accept_outcome {m : Nat} (c : Bool) (hrx : HoldsOnly s.rx reply) (hn : s.rxlen.toInt = reply.length)
    (h1 : 1 ≤ reply.length) (h13 : 13 ≤ m) : AcceptOutcome s.cfg.verifyRx m c reply (accept m c s).1 := by
  unfold AcceptOutcome
  by_cases hshort : reply.length < m
  · rw [if_pos hshort]
    have hvalid := validate_short (s := s) (m := m) c (by omega) (by omega)
    rw [accept, hvalid]
    rfl
  rw [if_neg hshort]
  obtain ⟨_, _, _, _, _, hstate⟩ := validate_state m c s
  obtain ⟨hc, ho, hrc⟩ | ⟨hrc, ho⟩ := validate_outcome (m := m) c hrx hn (by omega)
  · refine .inl ⟨hc, ?_, hrc⟩
    simp [accept, ho]
  · refine .inr ⟨hrc, ?_⟩
    cases hverify : s.cfg.verifyRx with
    | false => simp [accept_eq_validate hverify, ho]
    | true =>
      have hsum : ChecksumOutcome reply (checkSum (validate m c s).2).1 :=
        checkSum_outcome (by rw [hstate]; exact hrx) (by rw [hstate]; exact hn) (by omega)
      have haccept : (accept m c s).1 = (checkSum (validate m c s).2).1 := by
        unfold accept
        dsimp only
        rw [if_pos ⟨ho, hverify⟩]
        split_ifs with hok
        · exact hok.symm
        · rfl
      rw [haccept]
      exact hsum

end

end Sys2Proof.Machine
end

section
/-! The loop of attempts (43_exchange_dispatch.md R162): each attempt is an exchange and the acceptance of what it left, and `Run` says which outcomes the loop can go through. -/

namespace Sys2Proof.Machine

open Sys2Proof.Config

/-! ## One attempt -/

/-- An exchange, told by the transport's answers (43_exchange_dispatch.md R150). -/
theorem exchange_exchangeOf (c p : List Byte) (s : State) : ExchangeOf (frameOf s c p) s (exchange c p s) := by
  refine ⟨oneFrameAndAtMostOneReceivePerExchange c p s, fun r sends hs => ⟨fun hr => ?unsent, fun hr a recvs hq => ?sent⟩⟩
  case unsent =>
    rw [exchange_unsent c p hr hs]
    exact ⟨rfl, rfl⟩
  case sent =>
    by_cases ha : RecvAnswer.result a 128 ≤ 0
    · rw [exchange_unanswered c p hr hs hq ha]
      exact ⟨rfl, fun _ => rfl, fun h => absurd h (not_lt.mpr ha)⟩
    · cases a with
      | bytes first rest =>
        rw [exchange_replied c p hr hs hq]
        exact ⟨rfl, fun h => absurd h ha, fun _ => ⟨Memory.read_writeAll_nil _, rfl⟩⟩
      | timeout => exact absurd le_rfl ha
      | ioError k => exact absurd (by simp only [RecvAnswer.result]; omega) ha

theorem exchangeAccept_exchangeOf (c p : List Byte) (m : Nat) (k : Bool) (s : State) :
    ExchangeOf (frameOf s c p) s (exchangeAccept c p m k s).2 := by
  obtain ⟨_, _, _, _, _, h⟩ := accept_state m k (exchange c p s)
  rw [exchangeAccept, h]
  exact exchange_exchangeOf c p s

/-- The outcome of an attempt is the one that RXLEN and RXBUF give it. -/
theorem exchangeAccept_lastAttempt {m : Nat} (h13 : 13 ≤ m) (c p : List Byte) (k : Bool) (s : State) :
    LastAttempt m k (exchangeAccept c p m k s).2 (exchangeAccept c p m k s).1 := by
  unfold exchangeAccept
  obtain ⟨hn, hrx⟩ | ⟨hn, hrx⟩ | ⟨reply, h1, h128, hrx, hn⟩ := exchange_received c p s
  · rw [accept_ioError hn]
    exact .inl ⟨hn, fun i => by rw [logRec_rx, hrx]; rfl, rfl⟩
  · rw [accept_timeout hn]
    exact .inr (.inl ⟨hn, fun i => by rw [logRec_rx, hrx]; rfl, rfl⟩)
  · have ho := accept_outcome k hrx (by rw [hn, toInt_count h128]) h1 h13
    obtain ⟨_, _, _, _, _, h⟩ := accept_state m k (exchange c p s)
    rw [h]
    exact .inr (.inr ⟨reply, h1, h128, hrx, hn, ho⟩)

theorem frameOf_exchangeAccept (c p : List Byte) (m : Nat) (k : Bool) (s : State) :
    frameOf (exchangeAccept c p m k s).2 c p = frameOf s c p := by
  have h := exchangeAccept_works c p m k s
  rw [frameOf, frameOf, h.cfg, h.ver, h.adr]

/-! ## The outcomes of a loop -/

/-- `os` are the outcomes of a loop of at most `j` attempts that answers `o` (43_exchange_dispatch.md R162): none but the last is OK, and all `j` were made where that is not OK. -/
structure Run (j : Nat) (os : List OutcomeCode) (o : OutcomeCode) : Prop where
  failedBefore : ∀ x ∈ os.dropLast, x ≠ .ok
  last : os.getLast? = some o
  length_le : os.length ≤ j
  exhausted : o ≠ .ok → os.length = j

theorem Run.first {j : Nat} {o : OutcomeCode} (h : o = .ok ∨ j = 0) : Run (j + 1) [o] o where
  failedBefore := by simp
  last := rfl
  length_le := by simp
  exhausted := fun ho => by simp [h.resolve_left ho]

theorem Run.cons {j : Nat} {os : List OutcomeCode} {x o : OutcomeCode} (hx : x ≠ .ok) (h : Run j os o) : Run (j + 1) (x :: os) o where
  failedBefore := by
    have hne : os ≠ [] := by
      rintro rfl
      cases h.last
    rw [List.dropLast_cons_of_ne_nil hne]
    exact List.forall_mem_cons.mpr ⟨hx, h.failedBefore⟩
  last := by simp [List.getLast?_cons, h.last]
  length_le := Nat.succ_le_succ h.length_le
  exhausted := fun ho => congrArg Nat.succ (h.exhausted ho)

theorem Run.length_pos {j : Nat} {os : List OutcomeCode} {o : OutcomeCode} (h : Run j os o) : 1 ≤ os.length := by
  cases os with
  | nil => cases h.last
  | cons x os => simp

/-- Where a loop fails, so did each of its attempts. -/
theorem Run.allFailed {j : Nat} {os : List OutcomeCode} {o : OutcomeCode} (h : Run j os o) (ho : o ≠ .ok) : ∀ x ∈ os, x ≠ .ok := by
  rw [← List.dropLast_append_getLast? o h.last]
  simpa [or_imp, forall_and, ho] using h.failedBefore

/-- One attempt before others: ATTEMPTS takes its number, then the exchange and its acceptance. -/
theorem Attempts.attempt {m n : Nat} (h13 : 13 ≤ m) {c p : List Byte} {k : Bool} {s t : State} {a : OutcomeCode × State}
    {os : List OutcomeCode} (ha : exchangeAccept c p m k { s with attempts := BitVec.ofNat 8 n } = a)
    (hrest : Attempts m k (frameOf a.2 c p) (n + 1) a.2 os t) : Attempts m k (frameOf s c p) n s (a.1 :: os) t := by
  subst ha
  rw [frameOf_exchangeAccept] at hrest
  have hworks := exchangeAccept_works c p m k { s with attempts := BitVec.ofNat 8 n }
  exact ⟨(exchangeAccept c p m k { s with attempts := BitVec.ofNat 8 n }).2, hworks.cfg, hworks.attempts,
    exchangeAccept_exchangeOf c p m k { s with attempts := BitVec.ofNat 8 n }, exchangeAccept_lastAttempt h13 c p k _, hrest⟩

/-- The loop over the `j + 1` attempts numbered from `n` on goes through a run of them. -/
theorem retry_attempts {m : Nat} (h13 : 13 ≤ m) (c p : List Byte) (k : Bool) (j n : Nat) (last : OutcomeCode) (s : State) :
    ∃ os, Attempts m k (frameOf s c p) n s os (retry (exchangeAccept c p m k) (List.range' n (j + 1)) last s).2
      ∧ Run (j + 1) os (retry (exchangeAccept c p m k) (List.range' n (j + 1)) last s).1 := by
  induction j generalizing n last s with
  | zero =>
    have hretry : retry (exchangeAccept c p m k) (List.range' n 1) last s
        = exchangeAccept c p m k { s with attempts := BitVec.ofNat 8 n } := ite_self _
    rw [hretry]
    exact ⟨_, Attempts.attempt (os := []) h13 rfl rfl, Run.first (.inr rfl)⟩
  | succ j ih =>
    rw [List.range'_succ]
    simp only [retry]
    split
    · rename_i hok
      exact ⟨_, Attempts.attempt (os := []) h13 rfl rfl, Run.first (.inl hok)⟩
    · rename_i hfailed
      obtain ⟨os, hos, hrun⟩ := ih (n + 1) (exchangeAccept c p m k { s with attempts := BitVec.ofNat 8 n }).1
        (exchangeAccept c p m k { s with attempts := BitVec.ofNat 8 n }).2
      exact ⟨_, Attempts.attempt h13 rfl hos, Run.cons hfailed hrun⟩

/-! ## What a sequence of attempts leaves -/

section
variable {m n : Nat} {k : Bool} {f : List Byte} {s t : State} {o : OutcomeCode} {os : List OutcomeCode}

/-- Each attempt sends one frame. -/
theorem Attempts.requests (h : Attempts m k f n s os t) :
    ∃ rs, t.transport.requests = s.transport.requests ++ rs ∧ os.length = sendsIn rs := by
  induction os generalizing n s with
  | nil =>
    cases h
    exact ⟨[], by simp, rfl⟩
  | cons o os ih =>
    obtain ⟨u, -, -, ⟨hreq, -⟩, -, hrest⟩ := h
    obtain ⟨rs, hrs, hlen⟩ := ih hrest
    obtain hreq | hreq := hreq
    · exact ⟨[.flush, .send f] ++ rs, by rw [hrs, hreq, List.append_assoc], by simp [sendsIn, hlen]⟩
    · exact ⟨[.flush, .send f, .recv 128] ++ rs, by rw [hrs, hreq, List.append_assoc], by simp [sendsIn, hlen]⟩

/-- ATTEMPTS counts the attempts. -/
theorem Attempts.count (h : Attempts m k f n s (o :: os) t) : t.attempts = BitVec.ofNat 8 (n + os.length) := by
  induction os generalizing n s o with
  | nil =>
    obtain ⟨u, -, hn, -, -, rfl⟩ := h
    exact hn
  | cons x os ih =>
    obtain ⟨u, -, -, -, -, hrest⟩ := h
    rw [ih hrest, List.length_cons, Nat.add_right_comm, Nat.add_assoc]

/-- What the last attempt left gives it its outcome. -/
theorem Attempts.lastAttempt (h : Attempts m k f n s os t) (ho : os.getLast? = some o) : LastAttempt m k t o := by
  induction os generalizing n s with
  | nil => cases ho
  | cons x os ih =>
    obtain ⟨u, -, -, -, hx, hrest⟩ := h
    cases os with
    | nil =>
      cases ho
      cases hrest
      exact hx
    | cons y os => exact ih hrest (by simpa using ho)

end

/-! ## The three attempts of EXECUTE and PROBE -/

/-- A first attempt that is accepted ends the loop. -/
theorem retry_first {attempt : State → OutcomeCode × State} {a : Nat} {s u : State}
    (h : attempt { s with attempts := BitVec.ofNat 8 a } = (.ok, u)) (as : List Nat) (last : OutcomeCode) :
    retry attempt (a :: as) last s = (.ok, u) := by
  simp [retry, h]

/-- What the loop of three attempts that answers `o` leaves, and what it went through: the outcomes `os`, told by the requests `rs`. -/
structure Retried (m : Nat) (k : Bool) (f : List Byte) (s : State) (os : List OutcomeCode) (rs : List WireRequest) (o : OutcomeCode)
    (u : State) : Prop where
  attempts : Attempts m k f 1 s os u
  run : Run 3 os o
  requests : u.transport.requests = s.transport.requests ++ rs
  sends : os.length = sendsIn rs
  count : u.attempts.toNat = sendsIn rs
  lastAttempt : LastAttempt m k u o
  accepted : o = .ok → u.result = u.rxlen.signExtend 64 ∧ (k = true → u.rc = 0)
  frame : Attempted s u

theorem retry_retried {m : Nat} (h13 : 13 ≤ m) {c p : List Byte} {k : Bool} {s u : State} {o : OutcomeCode}
    (h : retry (exchangeAccept c p m k) [1, 2, 3] .ok s = (o, u)) : ∃ os rs, Retried m k (frameOf s c p) s os rs o u := by
  have hrange : retry (exchangeAccept c p m k) (List.range' 1 (2 + 1)) .ok s = (o, u) := h
  obtain ⟨os, hos, hrun⟩ := retry_attempts h13 c p k 2 1 .ok s
  have haccepted := retry_last (attempt := exchangeAccept c p m k)
    (Q := fun o u => o = .ok → u.result = u.rxlen.signExtend 64 ∧ (k = true → u.rc = 0))
    (fun _ => accept_ok_writes) [1, 2, 3] (by simp) .ok s
  have hframe := retry_attempted c p m k [1, 2, 3] .ok s
  rw [hrange] at hos hrun
  rw [h] at haccepted hframe
  obtain ⟨rs, hreq, hsends⟩ := hos.requests
  refine ⟨os, rs, hos, hrun, hreq, hsends, ?count, hos.lastAttempt hrun.last, haccepted, hframe⟩
  case count =>
    have hle := hrun.length_le
    cases os with
    | nil => cases hrun.last
    | cons x os =>
      rw [← hsends, hos.count, BitVec.toNat_ofNat]
      simp only [List.length_cons] at hle ⊢
      omega

end Sys2Proof.Machine
end

section
/-! EXECUTE (O32, O33): the loop of attempts with the command's code under CID(REMOTE) (43_exchange_dispatch.md R160). -/

namespace Sys2Proof.Machine

open Sys2Proof.Config

/-! ## The command's code (30_encoding.md R88) -/

theorem cmdCode_of_isCommandCode {cfg : Params} {idx : Nat} {code : List Byte} (h : IsCommandCode cfg idx code) :
    cmdCode cfg idx = some code := by
  obtain ⟨rfl, rfl⟩ | ⟨rfl, rfl⟩ | ⟨rfl, rfl⟩ | ⟨rfl, rfl⟩ := h
  all_goals rfl

theorem exists_isCommandCode (cfg : Params) {idx : Nat} (h : idx < 4) : ∃ code, IsCommandCode cfg idx code := by
  simp only [IsCommandCode]
  interval_cases idx <;> simp

theorem cmdCode_unknown (cfg : Params) {idx : Nat} (h : 4 ≤ idx) : cmdCode cfg idx = none := by
  obtain ⟨n, rfl⟩ := Nat.exists_eq_add_of_le' h
  rfl

/-! ## EXECUTE by the answer of its loop -/

section
variable {idx : Nat} {code : List Byte} {s u : State}

theorem executeBody_unknown (h : 4 ≤ idx) (s : State) : executeBody idx s = endedLog .unknownCommand .unknownCmd idx s := by
  rw [executeBody, cmdCode_unknown s.cfg h]
  exact finish_logRec rfl _ _ s

theorem executeBody_ok (hcode : IsCommandCode s.cfg idx code) (h : executeAttempts code s = (.ok, u)) :
    executeBody idx s = ended .ok { u with phase := .sysparam } := by
  rw [executeBody, cmdCode_of_isCommandCode hcode]
  simp only [h, if_true, finish_ok]

theorem executeBody_failed {o : OutcomeCode} (hcode : IsCommandCode s.cfg idx code) (h : executeAttempts code s = (o, u))
    (ho : o ≠ .ok) :
    executeBody idx s = endedLog .commandFailed .cmdFailed idx { u with result := BitVec.ofNat 64 (outcomeNumber o) } := by
  have hnumber : o.code = outcomeNumber o := by cases o <;> rfl
  rw [executeBody, cmdCode_of_isCommandCode hcode]
  simp only [h, if_neg ho, hnumber]
  exact finish_logRec rfl _ _ _

end

theorem exec_execute {s : State} (hmode : s.mode = .running) (idx : Nat) : exec (.execute idx) s = .next (executeBody idx s) :=
  exec_allowed (i := .execute idx) (by rw [hmode]; rfl)

/-- Settles O32: the first attempt is accepted, which ends the loop. -/
theorem executeSucceedsAtTheFirstAttempt : Obligations.ExecuteSucceedsAtTheFirstAttempt := by
  intro idx code s sends recvs reply hmode hverify hcode ha h13 hrc
  have hfirst := exchangeAccept_answered (s := { s with attempts := 1 }) ha (asciiChars4_length s.cfg.cidRemote) code hverify h13
    (by omega) hrc
  refine ⟨_, _, stored_writeAll s.tx _, Memory.read_writeAll_nil reply, ?_⟩
  rw [exec_execute hmode, executeBody_ok hcode (retry_first hfirst [2, 3] .ok)]
  rfl

/-! ## Whatever the transport answers -/

/-- The outcomes that acceptance can give (41_codec.md R118). -/
theorem AcceptOutcome.mem {verify k : Bool} {m : Nat} {reply : List Byte} {o : OutcomeCode} (h : AcceptOutcome verify m k reply o) :
    o ∈ [OutcomeCode.ok, .shortRead, .rejected, .badLchk, .badChk] := by
  unfold AcceptOutcome at h
  split at h
  · simp [h]
  obtain ⟨-, rfl, -⟩ | ⟨-, h⟩ := h
  · simp
  · repeat' split at h
    all_goals simp [h]

/-- The outcomes of an attempt that failed. -/
theorem LastAttempt.mem_of_ne_ok {m : Nat} {k : Bool} {u : State} {o : OutcomeCode} (h : LastAttempt m k u o) (ho : o ≠ .ok) :
    o ∈ [OutcomeCode.timeout, .ioError, .shortRead, .rejected, .badLchk, .badChk] := by
  obtain ⟨-, -, rfl⟩ | ⟨-, -, rfl⟩ | ⟨reply, -, -, -, -, h⟩ := h
  · simp
  · simp
  · have hmem := h.mem
    simp only [List.mem_cons, ho, false_or] at hmem ⊢
    exact .inr (.inr hmem)

/-- Settles O33: the index first, then the run of attempts and the loop's answer. -/
theorem executeRetriesAtMostThreeTimes : Obligations.ExecuteRetriesAtMostThreeTimes := by
  intro idx s hmode
  rw [exec_execute hmode]
  refine ⟨fun h => congrArg Host.Outcome.next (executeBody_unknown h s), fun h => ?_⟩
  obtain ⟨code, hcode⟩ := exists_isCommandCode s.cfg h
  cases hloop : executeAttempts code s with
  | mk o u =>
    obtain ⟨os, rs, hr⟩ := retry_retried (le_refl 13) hloop
    obtain ⟨hphase, hstore, hstr, hstrlen, hdataflag, hmode', l, hlog⟩ := hr.frame.keeps
    have hpos := hr.sends ▸ hr.run.length_pos
    have hle := hr.sends ▸ hr.run.length_le
    by_cases ho : o = .ok
    · subst ho
      obtain ⟨hresult, hrc⟩ := hr.accepted rfl
      exact ⟨_, u, code, os, rs, congrArg Host.Outcome.next (executeBody_ok hcode hloop), hcode, hr.attempts, hr.run.failedBefore,
        rfl, rfl, rfl, rfl, hr.requests, hr.sends, hr.count, hpos, hle,
        .inl ⟨rfl, rfl, hr.run.last, hr.lastAttempt, hrc rfl, hresult⟩, hstore, hstr, hstrlen, hdataflag, hmode'⟩
    · exact ⟨_, u, code, os, rs, congrArg Host.Outcome.next (executeBody_failed hcode hloop ho), hcode, hr.attempts,
        hr.run.failedBefore, rfl, rfl, rfl, rfl, hr.requests, hr.sends, hr.count, hpos, hle,
        .inr ⟨rfl, hphase, hr.sends ▸ hr.run.exhausted ho, hr.run.allFailed ho, ⟨l, by simp [endedLog, hlog]⟩, o,
          hr.lastAttempt.mem_of_ne_ok ho, hr.run.last, hr.lastAttempt, rfl⟩, hstore, hstr, hstrlen, hdataflag, hmode'⟩

end Sys2Proof.Machine
end

section
/-! PROBE (O34, O35): the loop of attempts with the vendor request, then the name that an accepted reply carries (43_exchange_dispatch.md R170). -/

namespace Sys2Proof.Machine

open Sys2Proof.Config

/-! ## The name (43_exchange_dispatch.md R170, 42_hexdecode.md R134) -/

/-- What a read of a buffer that holds a reply can give, inside the reply, is the reply's characters. -/
theorem Reads.eq_charsAt {m : Memory} {off : Nat} {bs reply : List Byte} (h : Reads m off bs) (hm : HoldsOnly m reply)
    (hl : off + bs.length ≤ reply.length) : bs = charsAt reply off bs.length := by
  refine List.ext_getElem? fun i => ?_
  by_cases hi : i < bs.length
  · have hlt : off + i < reply.length := by omega
    rw [h i reply[off + i] hi (by rw [hm, List.getElem?_eq_getElem hlt]), charsAt, List.getElem?_take_of_lt hi, List.getElem?_drop,
      List.getElem?_eq_getElem hlt]
  · rw [List.getElem?_eq_none (by omega), List.getElem?_eq_none (by simp [charsAt]; omega)]

/-- A part of a part of a reply. -/
theorem charsAt_charsAt (reply : List Byte) {off n i k : Nat} (h : i + k ≤ n) :
    charsAt (charsAt reply off n) i k = charsAt reply (off + i) k := by
  rw [charsAt, charsAt, charsAt, List.drop_take, List.take_take, List.drop_drop, Nat.min_eq_left (by omega)]

/-- The name of an accepted reply is decoded from 20 characters at NAME_OFF, at most 10 bytes of it, and goes to STRBUF and to the store. -/
theorem probeIdentify_decodes (s : State) :
    ∃ bs name x d, bs.length = 20 ∧ Reads s.rx s.cfg.nameOff bs ∧ DecodesTo 10 bs name x
      ∧ probeIdentify s = { s with
        str := Memory.writeAll s.str 0 (name ++ [0x00]), strlen := BitVec.ofNat 8 name.length
        store := applyEvents [.fact .vendorName (.text name)] s.store, nonhex := s.nonhex || x, draws := d
        mode := .running, phase := .sysparam } := by
  obtain ⟨bs, d, hlen, hreads, hr⟩ := readBytes_reads .rx s.cfg.nameOff 20 s
  obtain ⟨name, x, e, hdec, hstr⟩ := strFromHex_decodesTo hlen.ge (nameCap s.cfg) { s with draws := d }
  have hcap : min (20 / 2) (nameCap s.cfg - 1) = 10 := by
    rw [nameCap]
    omega
  rw [hcap] at hdec
  refine ⟨bs, name, x, e, hlen, hreads, hdec, ?_⟩
  simp only [probeIdentify, hr, hstr]
  rfl

/-! ## PROBE by the answer of its loop -/

section
variable {s u : State}

theorem exec_probe (hmode : s.mode = .uninit) : exec .probe s = .next (probeBody s) :=
  exec_allowed (i := .probe) (by rw [hmode]; rfl)

theorem probeBody_ok (h : probeAttempts s = (.ok, u)) : probeBody s = ended .ok (probeIdentify u) := by
  simp only [probeBody, h, if_true, finish_ok]

theorem probeBody_failed {o : OutcomeCode} (h : probeAttempts s = (o, u)) (ho : o ≠ .ok) :
    probeBody s = endedLog .fatal .probeFatal 0 { u with mode := .fatal } := by
  simp only [probeBody, h, if_neg ho]
  exact finish_unlogged rfl _

end

/-- Settles O34: the first attempt is accepted, and the name is read from the reply. -/
theorem probeIdentifiesTheDevice : Obligations.ProbeIdentifiesTheDevice := by
  intro s sends recvs reply hmode hverify hchecks ha h35 hrc
  have hfirst := exchangeAccept_answered (s := { s with attempts := 1 }) ha (asciiChars4_length s.cfg.cidVendor)
    (payloadChars s.cfg.reqVendor) hverify h35 (by omega) hrc
  rw [← hchecks] at hfirst
  have hloop : probeAttempts s = _ := retry_first hfirst [2, 3] .ok
  have hinside : s.cfg.nameOff + 20 ≤ reply.length := by omega
  have hrx : HoldsOnly (Memory.writeAll [] 0 reply) reply := Memory.read_writeAll_nil reply
  obtain ⟨bs, name, x, d, hlen, hreads, hdec, hid⟩ := probeIdentify_decodes (accepted reply (exchanged
    (Memory.writeAll s.tx 0 (frameOf s (asciiChars4 s.cfg.cidVendor) (payloadChars s.cfg.reqVendor))) (Memory.writeAll [] 0 reply)
    (frameOf s (asciiChars4 s.cfg.cidVendor) (payloadChars s.cfg.reqVendor)) reply sends recvs { s with attempts := 1 }))
  have hpair : ∀ j, j < 10 → charsAt bs (2 * j) 2 = charsAt reply (s.cfg.nameOff + 2 * j) 2 := fun j hj => by
    have hbs : bs = charsAt reply s.cfg.nameOff bs.length := hreads.eq_charsAt hrx (by rw [hlen]; exact hinside)
    rw [hbs, hlen, charsAt_charsAt reply (by omega)]
  refine ⟨_, _, _, name, s.nonhex || x, d, stored_writeAll s.tx _, hrx, hdec.length_le, stored_writeAll s.str _,
    fun j hj => ⟨fun hspace => hdec.space_notMem (List.mem_of_getElem? hspace), fun v hv => ?byte⟩, fun hshort v hv => ?space,
    ?nonhex, ?next⟩
  case byte => exact hdec.getElem?_of_parse hj (by rwa [hpair j (hj.trans_le hdec.length_le)])
  case space => exact hdec.eq_space_of_parse hshort (by rwa [hpair _ hshort])
  case nonhex =>
    rw [Bool.or_eq_true, hdec.nonhex_iff]
    exact or_congr_right (exists_congr fun j => and_congr_right fun _ => and_congr_right fun hj => by rw [hpair j hj])
  case next =>
    rw [exec_probe hmode, probeBody_ok hloop]
    exact congrArg (fun t => Host.Outcome.next (ended .ok t)) hid

/-- Settles O35: the run of attempts and the loop's answer. -/
theorem probeEndsRunningOrFatal : Obligations.ProbeEndsRunningOrFatal := by
  intro s hmode
  rw [exec_probe hmode]
  cases hloop : probeAttempts s with
  | mk o u =>
    obtain ⟨os, rs, hr⟩ := retry_retried (by decide) hloop
    obtain ⟨hphase, hstore, hstr, hstrlen, hdataflag, -, l, hlog⟩ := hr.frame.keeps
    have hpos := hr.sends ▸ hr.run.length_pos
    have hle := hr.sends ▸ hr.run.length_le
    by_cases ho : o = .ok
    · subst ho
      obtain ⟨hresult, hrc⟩ := hr.accepted rfl
      obtain ⟨bs, name, x, d, -, -, -, hid⟩ := probeIdentify_decodes u
      rw [probeBody_ok hloop, hid, hstr, hstore]
      exact ⟨_, u, os, rs, rfl, hr.attempts, hr.run.failedBefore,
        rfl, rfl, rfl, rfl, hr.requests, hr.sends, hr.count, hpos, hle,
        .inl ⟨rfl, rfl, rfl, hr.run.last, hr.lastAttempt, hresult, hrc, name, rfl, factOf_apply_same _ _ _, stored_writeAll s.str _,
          rfl⟩, hdataflag⟩
    · rw [probeBody_failed hloop ho]
      exact ⟨_, u, os, rs, rfl, hr.attempts, hr.run.failedBefore,
        rfl, rfl, rfl, rfl, hr.requests, hr.sends, hr.count, hpos, hle,
        .inr ⟨rfl, rfl, hphase, hr.sends ▸ hr.run.exhausted ho, hstore, hstr, hstrlen, hr.run.allFailed ho,
          ⟨o, ho, hr.run.last, hr.lastAttempt⟩, l, by simp [endedLog, hlog]⟩, hdataflag⟩

end Sys2Proof.Machine
end

section
/-! The next phase by the data flag (O36), the status correction on its own (O37), and a SYSPARAM tick whatever its fields hold (O45). -/

namespace Sys2Proof.Machine

open Sys2Proof.Config

/-! ## The next phase (44_pollfsm.md R193, R196) -/

/-- Settles O36: the two bits as numbers, then the parameter that decides where both are set. -/
theorem dataFlagOverridesTheDefault : Obligations.DataFlagOverridesTheDefault := by
  intro cfg df d _
  have hwarn : df.testBit 0 = true ↔ df % 2 = 1 := by simp [Nat.testBit_eq_decide_div_mod_eq]
  have honoff : df.testBit 4 = true ↔ df / 16 % 2 = 1 := by simp [Nat.testBit_eq_decide_div_mod_eq]
  simp only [hwarn, honoff, flagOverride]
  cases cfg.flagPriority <;> rfl

@[simp] theorem applyEvents_statusEvents_mark (f : StatusSet) (t : Store) : (applyEvents (statusEvents f) t).mark = t.mark := by
  obtain ⟨_ | _, _ | _, _ | _⟩ := f <;> rfl

/-- The store after the events of a correction, or of none (10_state.md R41). -/
theorem applyEvents_correction {vin : Nat} {t u : Store}
    (hu : u = applyEvents (if Corrects vin t.status then statusEvents (correction vin t.status) else []) t) :
    u.status = (if Corrects vin t.status then correction vin t.status else t.status)
    ∧ u.alarms = t.alarms ∧ u.facts = t.facts ∧ u.mark = t.mark := by
  subst hu
  by_cases hc : Corrects vin t.status
  · simp only [if_pos hc]
    exact ⟨applyEvents_statusEvents_status _ t, applyEvents_statusEvents_alarms _ t, applyEvents_statusEvents_facts _ t,
      applyEvents_statusEvents_mark _ t⟩
  · simp only [if_neg hc]
    exact ⟨rfl, rfl, rfl, rfl⟩

/-- Settles O37: a correction is a batch that draws nothing. -/
theorem correctionFollowsTheInputVoltage : Obligations.CorrectionFollowsTheInputVoltage := by
  intro vin nx s
  obtain ⟨hnext, hb⟩ := (Batch.refl s).correct vin nx
  obtain ⟨hstatus, halarms, hfacts, hmark⟩ := applyEvents_correction hb.store
  refine ⟨hstatus, halarms, hfacts, hmark, ?_⟩
  obtain ⟨d, hd, hstate⟩ := hb
  obtain rfl := hd rfl
  rw [← Prod.mk.eta (p := correct vin nx s), hnext, hstate]
  by_cases hc : Corrects vin s.store.status
  · simp only [if_pos hc, Bool.or_false]
    rfl
  · simp [if_neg hc]

/-! ## SYSPARAM, whatever its fields hold (44_pollfsm.md R198, R202) -/

/-- Settles O45: the handler publishes what the seven values say, free or not. -/
theorem sysparamTickSurvivesBadCharacters : Obligations.SysparamTickSurvivesBadCharacters := by
  intro s sends recvs reply hmode hphase hverify ha hl hrc
  obtain ⟨tx, rx, df, w, htx, hrx, hdf, hcfg, -, hw, hpub⟩ := tick_of_batch hmode hphase hverify ha hl hrc
  simp only [phaseHandler, reqCid, reqPayload] at htx hpub
  obtain ⟨f, hf, hnext, hb⟩ := sysparamHandler_batch hw hl
  rw [hcfg] at hf hb
  obtain ⟨hnv, hnf, hbh, hbhe, hbl, hble, hti⟩ := hf
  obtain ⟨d, u, -, hexec, hstore, hu⟩ := hpub _ _ _ hb
  rw [hnext] at hu
  obtain ⟨gnv, gnf, gbh, gbl, gti, hstatus, halarms, hmark⟩ := applyEvents_sys hstore
  have hlog : u.log = s.log := by rw [hu]; exact List.append_nil _
  exact ⟨tx, rx, df, f.nv, f.nf, f.bh, f.bhe, f.bl, f.ble, f.ti, d, u, htx, hrx, hdf, hnv, hnf, hbh, hbhe, hbl, hble, hti,
    hexec, by rw [hu]; rfl, by rw [hu]; rfl, hlog, by rw [hu]; rfl, gnv, gnf, gbh, gbl, gti, hstatus, halarms, hmark, hu⟩

end Sys2Proof.Machine
end

section
/-! The ticks that end otherwise than OK (O38, O39, O40): one failed attempt, then MARK_STALE (44_pollfsm.md R180, R201). -/

namespace Sys2Proof.Machine

open Sys2Proof.Config

/-! ## The tick by its attempt (44_pollfsm.md R180) -/

/-- The CID characters a tick sends. -/
abbrev tickCid (s : State) : List Byte := asciiChars4 (reqCid s.cfg s.phase)

/-- The payload a tick sends. -/
abbrev tickPayload (s : State) : List Byte := reqPayload s.cfg s.phase

/-- The one attempt of a tick. -/
abbrev tickAttempt (s : State) : OutcomeCode × State := exchangeAccept (tickCid s) (tickPayload s) (minReply s.phase) true s

section
variable {s u : State} {o : OutcomeCode}

theorem exec_tick (hmode : s.mode = .running) : exec .tick s = .next (tickBody s) :=
  exec_allowed (i := .tick) (by rw [hmode]; rfl)

theorem tickBody_ok (h : tickAttempt s = (.ok, u)) : tickBody s = finish .ok (tickPublish s.phase u) := by
  simp only [tickBody, h, if_true]

theorem tickBody_failed (h : tickAttempt s = (o, u)) (ho : o ≠ .ok) : tickBody s = finish o (emit .markStale u) := by
  simp only [tickBody, h, if_neg ho]

end

/-- Settles O39: an attempt leaves what the statement names, and a failed one is followed by MARK_STALE alone. -/
theorem failedTickOnlyMarksStale : Obligations.FailedTickOnlyMarksStale := by
  intro s t hmode hexec hne
  rw [exec_tick hmode] at hexec
  cases hx : tickAttempt s with
  | mk o u =>
    by_cases ho : o = .ok
    · subst ho
      rw [tickBody_ok hx] at hexec
      cases hexec
      exact absurd rfl hne
    · obtain ⟨rx, n, tr, l, d, x, rc, r, -, hu⟩ :=
        exchangeAccept_state (tickCid s) (tickPayload s) (minReply s.phase) true s
      obtain rfl : u = _ := (congrArg Prod.snd hx).symm.trans hu
      rw [tickBody_failed hx ho] at hexec
      cases hexec
      exact ⟨rfl, rfl, rfl, rfl, rfl, rfl, rfl, rfl, rfl, rfl, rfl⟩

/-! ## No reply (43_exchange_dispatch.md R150) -/

/-- The acceptance of an exchange that failed with the result `r`, in its send or its receive, adds its own record (41_codec.md R107). -/
theorem accept_failed {u : State} {r : Int} (h : u.rxlen = if r = 0 then 0 else -1) (m : Nat) (k : Bool) :
    accept m k u = (if r = 0 then .timeout else .ioError,
      { u with log := u.log ++ [if r = 0 then ⟨.rxTimeout, 0⟩ else ⟨.rxIoerr, -1⟩] }) := by
  by_cases h0 : r = 0
  · simp only [if_pos h0] at h ⊢
    exact accept_timeout h m k
  · simp only [if_neg h0] at h ⊢
    exact accept_ioError h m k

/-- A tick whose exchange failed with the result `r`. -/
theorem tick_unanswered {s u : State} {r : Int} (hmode : s.mode = .running) (hx : exchange (tickCid s) (tickPayload s) s = u)
    (hr : u.rxlen = if r = 0 then 0 else -1) :
    exec .tick s = .next (ended (if r = 0 then .timeout else .ioError) { u with
      log := u.log ++ [if r = 0 then ⟨.rxTimeout, 0⟩ else ⟨.rxIoerr, -1⟩]
      store := applyEvents [.markStale] u.store }) := by
  have hattempt : tickAttempt s = _ := (congrArg (accept (minReply s.phase) true) hx).trans (accept_failed hr _ _)
  rw [exec_tick hmode, tickBody_failed hattempt (by split_ifs <;> nofun), finish_eq_ended (by split_ifs <;> rfl)]
  rfl

/-- Settles O38: the failed exchange, then its acceptance and MARK_STALE. -/
theorem tickWithoutAReplyMarksStale : Obligations.TickWithoutAReplyMarksStale := by
  intro s r sends hmode hs
  refine ⟨fun hr => ⟨_, stored_writeAll s.tx _, ?unsent⟩, fun hr a recvs hq ha => ⟨_, stored_writeAll s.tx _, ?unreceived⟩⟩
  case unsent =>
    rw [tick_unanswered (r := r) hmode (exchange_unsent _ _ hr hs) rfl]
    by_cases h0 : r = 0 <;> simp [h0, frameOf]
  case unreceived =>
    rw [tick_unanswered (r := RecvAnswer.result a 128) hmode (exchange_unanswered _ _ hr hs hq ha) rfl]
    by_cases h0 : RecvAnswer.result a 128 = 0 <;> simp [h0, frameOf]

/-! ## A reply that VALIDATE refuses (41_codec.md R107) -/

theorem accept_of_validate {m : Nat} {k : Bool} {u t : State} {o : OutcomeCode} (h : validate m k u = (o, t)) (ho : o ≠ .ok) :
    accept m k u = (o, t) := by
  simp [accept, h, ho]

theorem minReply_ge (ph : Phase) : 33 ≤ minReply ph := by
  cases ph <;> decide

/-- The state in which a tick accepts the reply it was answered. -/
def tickAnswered (sends : List Int) (recvs : List RecvAnswer) (reply : List Byte) (s : State) : State :=
  exchanged (Memory.writeAll s.tx 0 (frameOf s (tickCid s) (tickPayload s))) (Memory.writeAll [] 0 reply)
    (frameOf s (tickCid s) (tickPayload s)) reply sends recvs s

section
variable {s : State} {sends : List Int} {recvs : List RecvAnswer} {reply : List Byte}

theorem exchange_tick (ha : AnswersReply s sends recvs reply) :
    exchange (tickCid s) (tickPayload s) s = tickAnswered sends recvs reply s :=
  exchange_answered ha (asciiChars4_length _) _

theorem tickAnswered_rxlen (ha : AnswersReply s sends recvs reply) :
    (tickAnswered sends recvs reply s).rxlen.toInt = reply.length :=
  toInt_count ha.length_bounds.2

/-- A tick whose reply VALIDATE refuses with the record (c, a): the exchange, the refusal, MARK_STALE. -/
theorem tick_refused (hmode : s.mode = .running) (ha : AnswersReply s sends recvs reply) {o : OutcomeCode} {c : LogCode} {a : Int}
    {t : State} (hv : validate (minReply s.phase) true (tickAnswered sends recvs reply s) = (o, logRec c a t)) (ho : o ≠ .ok)
    (hlog : o.finishLog = none) :
    exec .tick s = .next (endedLog o c a { t with store := applyEvents [.markStale] t.store }) := by
  have hattempt : tickAttempt s = _ :=
    (congrArg (accept (minReply s.phase) true) (exchange_tick ha)).trans (accept_of_validate hv ho)
  rw [exec_tick hmode, tickBody_failed hattempt ho, finish_unlogged hlog]
  rfl

end

/-- Settles O40: the two refusals of VALIDATE. -/
theorem tickRejectsBadReplies : Obligations.TickRejectsBadReplies := by
  intro s sends recvs reply hmode ha
  have hn := tickAnswered_rxlen ha
  have hrx : HoldsOnly (Memory.writeAll [] 0 reply) reply := Memory.read_writeAll_nil reply
  have hmin := minReply_ge s.phase
  refine ⟨fun (hshort : reply.length < minReply s.phase) => ?short,
    fun (hl : minReply s.phase ≤ reply.length) rc hrc h0 => ?rejected⟩
  case short =>
    obtain ⟨h1, -⟩ := ha.length_bounds
    have hv := validate_short (m := minReply s.phase) (s := tickAnswered sends recvs reply s) true (by omega) (by omega)
    rw [hn] at hv
    exact ⟨_, _, stored_writeAll s.tx _, hrx, tick_refused hmode ha hv nofun rfl⟩
  case rejected =>
    have hread : readHex 7 2 (tickAnswered sends recvs reply s) = (rc, tickAnswered sends recvs reply s) :=
      (readHex_reply (s := tickAnswered sends recvs reply s) hrx (by omega)).trans (hexval_parsed _ (by simp) hrc)
    have hv := validate_received (m := minReply s.phase) (by omega) hread
    rw [if_neg h0] at hv
    have hexec := tick_refused hmode ha hv nofun rfl
    -- the nested record updates are reduced first: left to `exact`, comparing them is slow
    dsimp only at hexec
    exact ⟨_, _, stored_writeAll s.tx _, hrx, hexec⟩

end Sys2Proof.Machine
end

section
/-! Every step answers a next state (O4), and a command that its mode does not allow ends WRONG_MODE and does nothing else (O9). -/

namespace Sys2Proof.Machine

/-! ## No traps (60_exceptions.md R225) -/

theorem blockStep_next (s : State) : ∃ t, blockStep s = .next t := by
  by_cases hb : s.busy = true
  · by_cases hdec : ∃ i, decode s.pending = .ok i
    · obtain ⟨i, hi⟩ := hdec
      exact ⟨_, (blockStep_decoded hb hi).trans (exec_eq i s)⟩
    · exact ⟨_, blockStep_undecoded hb hdec⟩
  · exact ⟨s, if_neg hb⟩

theorem takeTurn_next (turn : Turn) (s : State) : ∃ t, takeTurn turn s = .next t := by
  cases turn with
  | block => exact blockStep_next s
  | hostRead w a => exact ⟨hostRead w a s, rfl⟩
  | hostWrite w a v => exact ⟨hostWrite w a v s, rfl⟩
  | reset => exact ⟨blockReset s, rfl⟩

/-- Settles O4: each kind of turn answers a next state. -/
theorem everyStepAnswersANextState : Obligations.EveryStepAnswersANextState :=
  fun s => takeTurn_next (nextTurn s).1 (nextTurn s).2

/-! ## The mode table (60_exceptions.md R226) -/

/-- The commands that a mode allows are those whose row of the table allows the mode. -/
theorem modeRuns_eq_modeAllows (m : Mode) (i : Instr) : modeRuns m i = modeAllows (rowOf i) m := by
  cases m <;> cases i <;> rfl

theorem exec_disallowed {i : Instr} {s : State} (h : modeRuns s.mode i = false) :
    exec i s = .next (endedLog .wrongMode .wrongMode s.pending.toNat s) := by
  rw [exec_wrongMode (by rwa [← modeRuns_eq_modeAllows]), finish_logged rfl]
  rfl

/-- Settles O9: the row of the command does not allow the mode. -/
theorem disallowedCommandsFinishWrongMode : Obligations.DisallowedCommandsFinishWrongMode :=
  fun _ _ => exec_disallowed

end Sys2Proof.Machine
end

section
/-! The outcomes and the log records of the shared operations (60_exceptions.md R222, R232): which outcomes the checks of a reply, an exchange and an attempt can come to, and that every outcome but OK was logged on the way. -/

namespace Sys2Proof.Machine

/-! ## The log up to an outcome -/

/-- What the log is asked for on the way from `s` to `t`, where the outcome is `o` (60_exceptions.md R232): it only grew, and for any outcome but OK it took a record. -/
structure Logs (o : OutcomeCode) (s t : State) : Prop where
  grows : s.log <+: t.log
  failed : o ≠ .ok → s.log.length < t.log.length

/-- An operation that answers an outcome, one of `os`, and logs it as `Logs` asks. -/
structure Checks (os : List OutcomeCode) (s : State) (r : OutcomeCode × State) : Prop where
  mem : r.1 ∈ os
  logs : Logs r.1 s r.2

section
variable {os : List OutcomeCode} {o : OutcomeCode} {s t u : State} {r : OutcomeCode × State}

theorem Logs.ok (h : s.log <+: t.log) : Logs .ok s t := ⟨h, fun hne => absurd rfl hne⟩

/-- A last record is enough for any outcome. -/
theorem Logs.of_record {x : LogRecord} (h : s.log <+: t.log) (hu : u.log = t.log ++ [x]) : Logs o s u where
  grows := hu ▸ h.trans (List.prefix_append _ _)
  failed := fun _ => by
    have hle := h.length_le
    rw [hu, List.length_append, List.length_singleton]
    omega

theorem Logs.after (h : s.log <+: t.log) (g : Logs o t u) : Logs o s u :=
  ⟨h.trans g.grows, fun ho => h.length_le.trans_lt (g.failed ho)⟩

theorem Checks.ok (hok : .ok ∈ os) (h : s.log <+: t.log) : Checks os s (.ok, t) := ⟨hok, .ok h⟩

theorem Checks.logged (c : LogCode) (a : Int) (ho : o ∈ os) (h : s.log <+: t.log) : Checks os s (o, logRec c a t) :=
  ⟨ho, .of_record h rfl⟩

theorem Checks.mono {os' : List OutcomeCode} (h : Checks os s r) (hsub : os ⊆ os') : Checks os' s r := ⟨hsub h.mem, h.logs⟩

end

/-! ## VALIDATE, CHKLEN and CHKSUM (41_codec.md R107, R112, R115) -/

/-- VALIDATE's checks, in their order. -/
theorem validate_checks (m : Nat) (c : Bool) (s : State) :
    Checks [.ok, .timeout, .ioError, .shortRead, .rejected] s (validate m c s) := by
  have hself := List.prefix_rfl (l := s.log)
  rcases lt_trichotomy s.rxlen.toInt 0 with hneg | hzero | hpos
  · rw [validate_negative c hneg]
    exact .logged _ _ (by simp) hself
  · rw [validate_zero c hzero]
    exact .logged _ _ (by simp) hself
  by_cases hshort : s.rxlen.toInt < (max m 9 : Nat)
  · rw [validate_short c hpos hshort]
    exact .logged _ _ (by simp) hself
  have hlong : (max m 9 : Nat) ≤ s.rxlen.toInt := not_lt.mp hshort
  cases c with
  | false =>
    rw [validate_unchecked hlong]
    exact .ok (by simp) hself
  | true =>
    obtain ⟨bs, rc, d, -, -, -, hread⟩ := readHex_reads (len := 2) (by decide) 7 s
    rw [validate_received hlong hread]
    split
    · exact .ok (by simp) hself
    · exact .logged _ _ (by simp) hself

/-- CHKLEN's checks, in their order. -/
theorem checkLength_checks (s : State) : Checks [.ok, .timeout, .ioError, .shortRead, .badLchk] s (checkLength s) := by
  have hself := List.prefix_rfl (l := s.log)
  rcases lt_trichotomy s.rxlen.toInt 0 with hneg | hzero | hpos
  · rw [checkLength_negative hneg]
    exact .logged _ _ (by simp) hself
  · rw [checkLength_zero hzero]
    exact .logged _ _ (by simp) hself
  by_cases hshort : s.rxlen.toInt < 13
  · rw [checkLength_short hpos hshort]
    exact .logged _ _ (by simp) hself
  have hlong : 13 ≤ s.rxlen.toInt := not_lt.mp hshort
  obtain ⟨bs, d, -, -, hread⟩ := readBytes_reads .rx 9 4 s
  cases hp : parseHex bs with
  | none =>
    rw [checkLength_nonhex hlong hread hp]
    exact .logged _ _ (by simp) hself
  | some w =>
    rw [checkLength_hex hlong hread hp]
    split
    · exact .ok (by simp) hself
    · exact .logged _ _ (by simp) hself

/-- CHKSUM ends as CHKLEN does where that fails; else its own checks, in their order. -/
theorem checkSum_checks (s : State) : Checks [.ok, .timeout, .ioError, .shortRead, .badLchk, .badChk] s (checkSum s) := by
  have hself := List.prefix_rfl (l := s.log)
  by_cases hok : (checkLength s).1 = .ok
  · obtain ⟨l, d, hl, hlen⟩ := checkLength_ok hok
    have hresult := toNat_declared hl
    by_cases hbound : 110 < l
    · rw [checkSum_tooLong hlen hresult hbound]
      exact .logged _ _ (by simp) hself
    have hfits : l ≤ 110 := not_lt.mp hbound
    by_cases hshort : s.rxlen.toInt < 17 + l
    · rw [checkSum_short hlen hresult hfits hshort]
      exact .logged _ _ (by simp) hself
    have hlong : 17 + l ≤ s.rxlen.toInt := not_lt.mp hshort
    obtain ⟨cov, e, -, -, hcov⟩ := readBytes_reads .rx 1 (12 + l) { s with result := BitVec.ofNat 64 l, draws := d }
    obtain ⟨chk, f, -, -, hchk⟩ := readBytes_reads .rx (13 + l) 4 { s with result := BitVec.ofNat 64 l, draws := e }
    cases hp : parseHex chk with
    | none =>
      rw [checkSum_nonhex hlen hresult hfits hlong hcov hchk hp]
      exact .logged _ _ (by simp) hself
    | some v =>
      rw [checkSum_hex hlen hresult hfits hlong hcov hchk hp]
      split
      · exact .ok (by simp) hself
      · exact .logged _ _ (by simp) hself
  · rw [checkSum_of_checkLength_ne_ok hok]
    exact (checkLength_checks s).mono (by simp)

/-! ## Acceptance, the exchange and the attempt -/

/-- Acceptance comes to VALIDATE's outcomes, and to CHKSUM's with VERIFY_RX (41_codec.md R118). -/
theorem accept_checks (m : Nat) (c : Bool) (s : State) : Checks (outcomesOf s.cfg.verifyRx .tick) s (accept m c s) := by
  have hvalid := validate_checks m c s
  cases hverify : s.cfg.verifyRx with
  | false =>
    rw [accept_eq_validate hverify]
    exact hvalid.mono (by simp [outcomesOf])
  | true =>
    have hsum := checkSum_checks (validate m c s).2
    have hlogs := hsum.logs.after hvalid.logs.grows
    unfold accept
    dsimp only
    split_ifs with hverified hok
    · exact .ok (by simp [outcomesOf]) hlogs.grows
    · exact Checks.mono ⟨hsum.mem, hlogs⟩ (by decide)
    · exact hvalid.mono (by decide)

theorem transportSend_log (f : List Byte) (s : State) : (transportSend f s).2.log = s.log := by
  obtain ⟨_, _, h⟩ := transportSend_state f s
  rw [h]

theorem transportRecv_log (n : Nat) (s : State) : (transportRecv n s).2.log = s.log := by
  obtain ⟨_, _, h⟩ := transportRecv_state n s
  rw [h]

/-- A receive that RXLEN reports as failed was logged (43_exchange_dispatch.md R150). -/
theorem receiveReply_logs (s : State) : Logs (exchangeOutcome (receiveReply s).rxlen.toInt) s (receiveReply s) := by
  have hrecv : s.log <+: (transportRecv 128 s).2.log := by rw [transportRecv_log]
  unfold receiveReply
  dsimp only
  split
  · exact .of_record hrecv rfl
  split
  · exact .of_record hrecv rfl
  · have hle := RecvAnswer.result_le (transportRecv 128 s).1 128
    obtain ⟨n, hn⟩ := Int.eq_ofNat_of_zero_le (a := RecvAnswer.result (transportRecv 128 s).1 128) (by omega)
    rw [hn, ofInt_count, exchangeOutcome_count (by omega) (by omega)]
    exact .ok hrecv

/-- An exchange that RXLEN reports as failed, in its send or its receive, was logged (43_exchange_dispatch.md R150). -/
theorem exchange_logs (c p : List Byte) (s : State) :
    Logs (exchangeOutcome (exchange c p s).rxlen.toInt) s (exchange c p s) := by
  have hsend : s.log <+: (transportSend (frameOf s c p) (putFrame c p (transportFlush s))).2.log := by
    rw [transportSend_log]
    exact List.prefix_rfl
  unfold exchange
  dsimp only
  split
  · exact .of_record hsend rfl
  split
  · exact .of_record hsend rfl
  · exact (receiveReply_logs _).after hsend

theorem exchangeAccept_checks (c p : List Byte) (m : Nat) (k : Bool) (s : State) :
    Checks (outcomesOf s.cfg.verifyRx .tick) s (exchangeAccept c p m k s) := by
  obtain ⟨_, _, _, _, _, -, hx⟩ := exchange_state c p s
  have hcfg : (exchange c p s).cfg = s.cfg := by rw [hx]
  have haccept := accept_checks m k (exchange c p s)
  rw [hcfg] at haccept
  exact ⟨haccept.mem, haccept.logs.after (exchange_logs c p s).grows⟩

theorem Attempted.log_grows {s t : State} (h : Attempted s t) : s.log <+: t.log := by
  obtain ⟨-, -, -, -, -, -, l, hl⟩ := h.keeps
  exact ⟨l, hl.symm⟩

theorem tickPublish_log_grows (ph : Phase) (s : State) : s.log <+: (tickPublish ph s).log := by
  obtain ⟨_, _, _, _, _, _, h⟩ := tickPublish_state ph s
  rw [h]
  exact List.prefix_append _ _

end Sys2Proof.Machine
end

section
/-! How every command ends (O13, O14, O15): BAD_ARGUMENT with nothing written, or another of its outcomes after what `Logs` asks of the log. -/

namespace Sys2Proof.Machine

/-! ## The end of a command that its mode allows -/

/-- The ways a command can end in a mode that allows it, with an outcome out of `os` (60_exceptions.md R221, R222): BAD_ARGUMENT writes nothing but the record, any other outcome was logged by the command's own rule. -/
inductive Ends (os : List OutcomeCode) (s : State) : State → Prop
  | badArgument (h : .badArgument ∈ os) : Ends os s (endedLog .badArgument .badArgument s.pending.toNat s)
  | reported {o : OutcomeCode} {u : State} (ho : o ∈ os) (hself : o.finishLog = none) (h : Logs o s u) : Ends os s (ended o u)

section
variable {os : List OutcomeCode} {s t u : State}

theorem Ends.ok (hok : .ok ∈ os) (h : s.log <+: u.log) : Ends os s (ended .ok u) := .reported hok rfl (.ok h)

theorem Ends.logged {o : OutcomeCode} (c : LogCode) (a : Int) (ho : o ∈ os) (hself : o.finishLog = none) (h : s.log <+: u.log) :
    Ends os s (endedLog o c a u) :=
  .reported (u := logRec c a u) ho hself (.of_record h rfl)

/-- A command that ends with the outcome of a check. -/
theorem Ends.of_checks {r : OutcomeCode × State} (h : Checks os s r) (hself : ∀ o ∈ os, o.finishLog = none) :
    Ends os s (finish r.1 r.2) := by
  rw [finish_eq_ended (hself _ h.mem)]
  exact .reported h.mem (hself _ h.mem) h.logs

theorem Ends.mono {os' : List OutcomeCode} (h : Ends os s t) (hsub : os ⊆ os') : Ends os' s t := by
  cases h with
  | badArgument h => exact .badArgument (hsub h)
  | reported ho hself h => exact .reported (hsub ho) hself h

theorem Ends.outcome_mem (h : Ends os s t) : t.outcome ∈ os := by
  cases h with
  | badArgument h => exact h
  | reported ho _ _ => exact ho

theorem Ends.logs (h : Ends os s t) : Logs t.outcome s t := by
  cases h with
  | badArgument _ => exact .of_record (t := s) List.prefix_rfl rfl
  | reported _ _ h => exact ⟨h.grows, h.failed⟩

theorem Ends.handshake (h : Ends os s t) : t.busy = false ∧ t.done = true := by
  cases h <;> exact ⟨rfl, rfl⟩

/-- Of the outcomes that `finish` logs itself, a command that its mode allows can end with BAD_ARGUMENT alone, and then logs nothing else. -/
theorem Ends.badArgument_of_finishLog (h : Ends os s t) (hself : t.outcome.finishLog ≠ none) :
    t = endedLog .badArgument .badArgument s.pending.toNat s := by
  cases h with
  | badArgument _ => rfl
  | reported _ hnone _ => exact absurd hnone hself

end

/-! ## The commands that check or exchange frames -/

theorem validateBody_ends (m : Nat) (s : State) : Ends [.ok, .timeout, .ioError, .shortRead, .rejected] s (validateBody m s) :=
  .of_checks (validate_checks m true s) (by decide)

theorem chklenBody_ends (s : State) : Ends [.ok, .timeout, .ioError, .shortRead, .badLchk] s (chklenBody s) :=
  .of_checks (checkLength_checks s) (by decide)

theorem chksumBody_ends (s : State) : Ends [.ok, .timeout, .ioError, .shortRead, .badLchk, .badChk] s (chksumBody s) :=
  .of_checks (checkSum_checks s) (by decide)

theorem exchangeOutcome_mem (n : Int) : exchangeOutcome n ∈ [OutcomeCode.ok, .timeout, .ioError] := by
  unfold exchangeOutcome
  split_ifs <;> simp

/-- EXCHANGE ends BAD_ARGUMENT, or as its transport result says (43_exchange_dispatch.md R151). -/
theorem exec_exchange_ends {s : State} (hmode : s.mode ≠ .fatal) :
    ∃ t, exec .exchange s = .next t ∧ Ends [.ok, .timeout, .ioError, .badArgument] s t := by
  obtain hfits | hlong := le_or_gt s.pllen.toNat 110
  · obtain ⟨p, d, -, -, hexec⟩ := exec_exchange_fits hmode hfits
    refine ⟨_, hexec _ rfl, ?_⟩
    have hlogs := Logs.after (s := s) (t := { s with draws := d }) List.prefix_rfl (exchange_logs (chars4 s.cid) p _)
    exact (Ends.of_checks (r := (_, _)) ⟨exchangeOutcome_mem _, hlogs⟩ (by decide)).mono (by simp)
  · exact ⟨_, exchangeReportsFailures.1 s hmode hlong, .badArgument (by simp)⟩

/-- EXECUTE ends OK, or logs the failure it ends with (43_exchange_dispatch.md R160). -/
theorem executeBody_ends (idx : Nat) (s : State) : Ends [.ok, .unknownCommand, .commandFailed] s (executeBody idx s) := by
  obtain hknown | hunknown := Nat.lt_or_ge idx 4
  · obtain ⟨code, hcode⟩ := exists_isCommandCode s.cfg hknown
    have hgrows := (executeAttempts_attempted code s).log_grows
    cases hloop : executeAttempts code s with
    | mk o u =>
      rw [hloop] at hgrows
      by_cases ho : o = .ok
      · subst ho
        rw [executeBody_ok hcode hloop]
        exact .ok (by simp) hgrows
      · rw [executeBody_failed hcode hloop ho]
        exact .logged _ _ (by simp) rfl hgrows
  · rw [executeBody_unknown hunknown]
    exact .logged _ _ (by simp) rfl List.prefix_rfl

/-- TICK ends with the outcome of its one attempt (44_pollfsm.md R180). -/
theorem tickBody_ends (s : State) : Ends (outcomesOf s.cfg.verifyRx .tick) s (tickBody s) := by
  have hattempt : Checks (outcomesOf s.cfg.verifyRx .tick) s (tickAttempt s) := exchangeAccept_checks _ _ _ _ s
  have hself : ∀ o ∈ outcomesOf s.cfg.verifyRx .tick, o.finishLog = none := by
    cases s.cfg.verifyRx <;> decide
  cases hx : tickAttempt s with
  | mk o u =>
    rw [hx] at hattempt
    by_cases ho : o = .ok
    · subst ho
      rw [tickBody_ok hx, finish_ok]
      exact .ok hattempt.mem (hattempt.logs.grows.trans (tickPublish_log_grows s.phase u))
    · rw [tickBody_failed hx ho]
      exact .of_checks (r := (o, emit .markStale u)) ⟨hattempt.mem, hattempt.logs.grows, hattempt.logs.failed⟩ hself

/-- PROBE ends OK, or logs that it ends FATAL (43_exchange_dispatch.md R170). -/
theorem probeBody_ends (s : State) : Ends [.ok, .fatal] s (probeBody s) := by
  have hgrows : s.log <+: (probeAttempts s).2.log := (retry_attempted (asciiChars4 s.cfg.cidVendor) (payloadChars s.cfg.reqVendor)
    35 s.cfg.probeChecksRc [1, 2, 3] .ok s).log_grows
  cases hloop : probeAttempts s with
  | mk o u =>
    rw [hloop] at hgrows
    by_cases ho : o = .ok
    · subst ho
      obtain ⟨_, _, _, _, -, -, -, hid⟩ := probeIdentify_decodes u
      rw [probeBody_ok hloop, hid]
      exact .ok (by simp) hgrows
    · rw [probeBody_failed hloop ho]
      exact .logged _ _ (by simp) rfl hgrows

/-! ## Every command -/

/-- The commands of the first row of 60_exceptions.md R226, outside FATAL. -/
theorem exec_untilFatal_ends {i : Instr} {s : State} (hi : rowOf i = .untilFatal) (hmode : s.mode ≠ .fatal) :
    ∃ t, exec i s = .next t ∧ Ends (outcomesOf s.cfg.verifyRx i) s t := by
  have hself := List.prefix_rfl (l := s.log)
  have hexec := exec_untilFatal hi hmode
  cases i with
  | build =>
    obtain ⟨hfits, hlong⟩ := buildStoresTheFrame s hmode
    obtain hl | hl := le_or_gt s.pllen.toNat 110
    · obtain ⟨_, _, _, -, -, -, h⟩ := hfits hl
      exact ⟨_, h, .ok (by simp [outcomesOf]) hself⟩
    · exact ⟨_, hlong hl, .badArgument (by simp [outcomesOf])⟩
  | lchk l12 => exact ⟨_, hexec.trans (congrArg Host.Outcome.next (finish_ok _)), .ok (by simp [outcomesOf]) hself⟩
  | pchk sel off len =>
    obtain ⟨hinside, hpast⟩ := pchkComputesThePayloadChecksum sel off len s hmode
    obtain hl | hl := le_or_gt (off + len) 128
    · obtain ⟨_, _, _, -, -, -, -, h⟩ := hinside hl
      exact ⟨_, h, .ok (by simp [outcomesOf]) hself⟩
    · exact ⟨_, hpast hl, .badArgument (by simp [outcomesOf])⟩
  | validate m => exact ⟨_, hexec, validateBody_ends m s⟩
  | chklen => exact ⟨_, hexec, chklenBody_ends s⟩
  | chksum => exact ⟨_, hexec, chksumBody_ends s⟩
  | hex2val off len =>
    obtain ⟨hzero, hpast, hinside⟩ := hex2valDecodesTheField off len s hmode
    obtain hlen | hlen := Nat.lt_or_ge 15 len
    · exact ⟨_, hzero hlen, .ok (by simp [outcomesOf]) hself⟩
    obtain hl | hl := le_or_gt (off + len) 128
    · obtain ⟨_, _, _, -, -, -, h⟩ := hinside hlen hl
      exact ⟨_, h, .ok (by simp [outcomesOf]) hself⟩
    · exact ⟨_, hpast hlen hl, .badArgument (by simp [outcomesOf])⟩
  | hex2str off len cap =>
    obtain ⟨hbad, hfits⟩ := hex2strDecodesTheString off len cap s hmode
    by_cases hargs : cap = 0 ∨ 128 < cap ∨ 128 < off + len
    · exact ⟨_, hbad hargs, .badArgument (by simp [outcomesOf])⟩
    · obtain ⟨_, _, _, _, _, -, -, -, -, -, -, -, h⟩ := hfits (by omega) (by omega) (by omega)
      exact ⟨_, h, .ok (by simp [outcomesOf]) hself⟩
  | exchange => exact exec_exchange_ends hmode
  | execute idx => cases hi
  | tick => cases hi
  | probe => cases hi

theorem exec_allowed_ends {i : Instr} {s : State} (h : modeAllows (rowOf i) s.mode = true) :
    ∃ t, exec i s = .next t ∧ Ends (outcomesOf s.cfg.verifyRx i) s t := by
  cases hi : rowOf i with
  | untilFatal =>
    refine exec_untilFatal_ends hi fun hfatal => ?_
    rw [hi, hfatal] at h
    cases h
  | runningOnly =>
    cases i with
    | execute idx => exact ⟨_, exec_allowed h, executeBody_ends idx s⟩
    | tick => exact ⟨_, exec_allowed h, tickBody_ends s⟩
    | _ => cases hi
  | uninitOnly =>
    cases i with
    | probe => exact ⟨_, exec_allowed h, probeBody_ends s⟩
    | _ => cases hi

/-- How a command ends: WRONG_MODE where its mode does not allow it (60_exceptions.md R226), else as its own rule says. -/
theorem exec_ends {i : Instr} {s t : State} (h : exec i s = .next t) :
    (modeRuns s.mode i = true ∧ Ends (outcomesOf s.cfg.verifyRx i) s t)
    ∨ (modeRuns s.mode i = false ∧ t = endedLog .wrongMode .wrongMode s.pending.toNat s) := by
  cases hruns : modeRuns s.mode i with
  | true =>
    obtain ⟨u, hu, hends⟩ := exec_allowed_ends (by rwa [← modeRuns_eq_modeAllows])
    cases hu.symm.trans h
    exact .inl ⟨rfl, hends⟩
  | false =>
    cases (exec_disallowed hruns).symm.trans h
    exact .inr ⟨rfl, rfl⟩

/-- Settles O13: by the end of the command; of the outcomes that `finish` logs, its own rule gives BAD_ARGUMENT alone. -/
theorem everyCommandFinishes : Obligations.EveryCommandFinishes := by
  intro i s
  obtain ⟨t, h⟩ : ∃ t, exec i s = .next t := ⟨_, exec_eq i s⟩
  refine ⟨t, h, ?_⟩
  obtain ⟨-, hends⟩ | ⟨-, rfl⟩ := exec_ends h
  · obtain ⟨hbusy, hdone⟩ := hends.handshake
    refine ⟨hbusy, hdone, fun ho => ?_, fun ho => ?_⟩
    · rw [hends.badArgument_of_finishLog (by rw [ho]; nofun)]
      rfl
    · rw [hends.badArgument_of_finishLog (by rw [ho]; nofun)] at ho
      cases ho
  · exact ⟨rfl, rfl, nofun, fun _ => rfl⟩

/-- Settles O14: by the end of the command, and of a word that does not decode. -/
theorem outcomesOfEachCommand : Obligations.OutcomesOfEachCommand := by
  refine ⟨fun i s t h => ?_, fun s t hb hdec h => ?_⟩
  · obtain ⟨hruns, hends⟩ | ⟨hruns, rfl⟩ := exec_ends h
    · exact ⟨fun _ => hends.outcome_mem, fun hno => absurd (hruns.symm.trans hno) nofun⟩
    · exact ⟨fun hyes => absurd (hruns.symm.trans hyes) nofun, fun _ => rfl⟩
  · cases (blockStep_undecoded hb fun ⟨i, hi⟩ => hdec i hi).symm.trans h
    rfl

/-- Settles O15: by the end of the command; a log that took a record is longer. -/
theorem everyFailureIsLogged : Obligations.EveryFailureIsLogged := by
  intro i s t h
  have hlogs : Logs t.outcome s t := by
    obtain ⟨-, hends⟩ | ⟨-, rfl⟩ := exec_ends h
    · exact hends.logs
    · exact .of_record (t := s) List.prefix_rfl rfl
  obtain ⟨records, hrecords⟩ := hlogs.grows
  refine ⟨records, hrecords.symm, fun ho hnil => ?_⟩
  have hlonger := hlogs.failed ho
  rw [← hrecords, hnil, List.append_nil] at hlonger
  exact lt_irrefl _ hlonger

end Sys2Proof.Machine
end

section
/-! The stale bytes of RXBUF (O47, 70_reset_and_hazards.md R264): every exchange begins by giving RXBUF up (`exchange_rx`), so a composite command reads no byte that stood there before it. -/

namespace Sys2Proof.Machine

/-! ## Reads of the other buffers -/

theorem readByte_setRx {b : Buf} (hb : b ≠ .rx) (i : Nat) (s : State) (rx : Memory) :
    readByte b i { s with rx := rx } = ((readByte b i s).1, { (readByte b i s).2 with rx := rx }) := by
  have hbuf : State.buf { s with rx := rx } b = s.buf b := by
    cases b with
    | rx => exact absurd rfl hb
    | _ => rfl
  unfold readByte
  rw [hbuf]
  cases Memory.read (s.buf b) i <;> rfl

theorem readBytes_setRx {b : Buf} (hb : b ≠ .rx) (off len : Nat) (s : State) (rx : Memory) :
    readBytes b off len { s with rx := rx } = ((readBytes b off len s).1, { (readBytes b off len s).2 with rx := rx }) := by
  induction len generalizing off s with
  | zero => rfl
  | succ len ih => rw [readBytes, readByte_setRx hb, ih, readBytes]

/-! ## Attempts -/

theorem exchangeAccept_setRx (c p : List Byte) (m : Nat) (k : Bool) (s : State) (rx : Memory) :
    exchangeAccept c p m k { s with rx := rx } = exchangeAccept c p m k s := by
  rw [exchangeAccept, exchange_rx, exchangeAccept]

/-- A loop that makes an attempt at all is as blind to the old RXBUF as its first attempt (43_exchange_dispatch.md R162). -/
theorem retry_setRx {c p : List Byte} {m : Nat} {k : Bool} {a : Nat} {as : List Nat} {last : OutcomeCode} (s : State) (rx : Memory) :
    retry (exchangeAccept c p m k) (a :: as) last { s with rx := rx } = retry (exchangeAccept c p m k) (a :: as) last s := by
  have hfirst := exchangeAccept_setRx c p m k { s with attempts := BitVec.ofNat 8 a } rx
  simp only [retry, hfirst]

/-! ## The composite commands -/

theorem exchangeBody_setRx_fits {s : State} (h : s.pllen.toNat ≤ 110) (rx : Memory) :
    exchangeBody { s with rx := rx } = exchangeBody s := by
  have hpayload := readBytes_setRx (b := .pl) nofun 0 s.pllen.toNat s rx
  simp only [exchangeBody, maxPayload, Nat.not_lt.mpr h, if_false, hpayload, exchange_rx]

theorem exchangeBody_tooLong {s : State} (h : 110 < s.pllen.toNat) : exchangeBody s = finish .badArgument s := if_pos h

theorem executeBody_setRx_known {idx : Nat} (h : idx < 4) (s : State) (rx : Memory) :
    executeBody idx { s with rx := rx } = executeBody idx s := by
  obtain ⟨code, hcode⟩ := exists_isCommandCode s.cfg h
  have hattempts : executeAttempts code { s with rx := rx } = executeAttempts code s := retry_setRx s rx
  simp only [executeBody, cmdCode_of_isCommandCode hcode, hattempts]

theorem tickBody_setRx (s : State) (rx : Memory) : tickBody { s with rx := rx } = tickBody s := by
  simp only [tickBody, exchangeAccept_setRx]

theorem probeBody_setRx (s : State) (rx : Memory) : probeBody { s with rx := rx } = probeBody s := by
  have hattempts : probeAttempts { s with rx := rx } = probeAttempts s := retry_setRx s rx
  simp only [probeBody, hattempts]

/-- The composite commands that end before their exchange: EXECUTE of an unknown command (43_exchange_dispatch.md R160), EXCHANGE of a payload too long (R151). -/
def EndsUnexchanged (i : Instr) (s : State) : Prop :=
  (∃ k, i = .execute k ∧ 4 ≤ k) ∨ (i = .exchange ∧ 110 < s.pllen.toNat)

/-- A composite command either makes an exchange, and is alike whatever RXBUF held, or makes none and hands RXBUF on. -/
theorem bodyOf_setRx {i : Instr} (hi : i = .tick ∨ i = .exchange ∨ i = .probe ∨ ∃ k, i = .execute k) (s : State) (rx : Memory) :
    bodyOf i { s with rx := rx } = bodyOf i s
    ∨ (EndsUnexchanged i s ∧ bodyOf i { s with rx := rx } = { bodyOf i s with rx := rx }) := by
  obtain rfl | rfl | rfl | ⟨k, rfl⟩ := hi
  · exact .inl (tickBody_setRx s rx)
  · obtain hfits | hlong := le_or_gt s.pllen.toNat 110
    · exact .inl (exchangeBody_setRx_fits hfits rx)
    · refine .inr ⟨.inr ⟨rfl, hlong⟩, ?_⟩
      rw [bodyOf, exchangeBody_tooLong hlong, exchangeBody_tooLong (s := { s with rx := rx }) hlong]
      rfl
  · exact .inl (probeBody_setRx s rx)
  · obtain hknown | hunknown := Nat.lt_or_ge k 4
    · exact .inl (executeBody_setRx_known hknown s rx)
    · refine .inr ⟨.inl ⟨k, rfl, hunknown⟩, ?_⟩
      rw [bodyOf, executeBody_unknown hunknown, executeBody_unknown hunknown]
      rfl

/-- Settles O47: a command that its mode does not allow ends at once and keeps RXBUF; one that runs makes its exchange or ends before it. -/
theorem staleReplyBytesNeverMatter : Obligations.StaleReplyBytesNeverMatter := by
  intro i s rx hi
  cases hruns : modeRuns s.mode i with
  | false => exact ⟨_, rx, exec_disallowed hruns, exec_disallowed (s := { s with rx := rx }) hruns, nofun⟩
  | true =>
    have hallowed : modeAllows (rowOf i) s.mode = true := by rwa [← modeRuns_eq_modeAllows]
    have hexec := exec_allowed (s := { s with rx := rx }) hallowed
    obtain hblind | ⟨hends, hkept⟩ := bodyOf_setRx hi s rx
    · exact ⟨bodyOf i s, (bodyOf i s).rx, exec_allowed hallowed, by rw [hexec, hblind], fun _ _ _ => rfl⟩
    · refine ⟨bodyOf i s, rx, exec_allowed hallowed, by rw [hexec, hkept], fun _ hknown hfits => ?_⟩
      obtain ⟨k, rfl, hunknown⟩ | ⟨rfl, hlong⟩ := hends
      · exact absurd (hknown k rfl) hunknown.not_gt
      · exact absurd (hfits rfl) hlong.not_ge

end Sys2Proof.Machine
end

section
/-! The turns that are not the block's (O3), the words written out (O5) and the invariant right after reset (O49). -/

namespace Sys2Proof.Machine

/-! ## The turn that comes next (20_memory.md R62) -/

/-- The first turn of the list is taken, and leaves the list, before anything else happens. -/
theorem step_of_turns {s : State} {turn : Turn} {rest : List Turn} (h : s.turns = turn :: rest) :
    step s = takeTurn turn { s with turns := rest } := by
  have hnext : nextTurn s = (turn, { s with turns := rest }) := by rw [nextTurn, h]
  rw [step, hnext]

/-- Settles O3: the turn at the head of the list says what the step does. -/
theorem stepTakesTheHostsTurn : Obligations.StepTakesTheHostsTurn :=
  fun _ _ => ⟨fun _ _ h => step_of_turns h, fun _ _ _ h => step_of_turns h, fun h => step_of_turns h⟩

/-! ## Words written out from the opcode map (30_encoding.md R73) -/

theorem decode_of_encode_eq {i : Instr} {w : Word} (hwf : i.wf = true) (hw : encode i = w) : decode w = .ok i :=
  hw ▸ decodeOfEncode i hwf

/-- Settles O5: each word that stands for a command is that command's encoding; of the two others, 0x0D is no opcode and PCHK's format marks bit 25 0 (30_encoding.md R74). -/
theorem writtenOutWordsDecode : Obligations.WrittenOutWordsDecode := by
  refine ⟨?_, ?_, ?_, ?_, ?_, ?_, ?_, ?_, ?_, ?_, ?_, ?_, rfl, rfl⟩
  all_goals exact decode_of_encode_eq rfl rfl

/-! ## The invariant right after reset (10_state.md R44) -/

/-- Settles O49: power-on is itself a state right after a reset, and every reset has the invariant. -/
theorem resetHasTheInvariant : Obligations.ResetHasTheInvariant := by
  rw [Obligations.ResetHasTheInvariant, ← blockReset_powerOn]
  exact blockReset_inv State.reset

end Sys2Proof.Machine
end
